-- ==== Sys2Proof/Word.lean ====
section
/-! DEFINITION. The value types of 00_scope.md R10. All values are unsigned. -/

namespace Sys2Proof

/-- `Byte` of R10: an 8-bit data value. Counts and bank numbers, whose widths are at most 8 (R9), are held in one too. -/
abbrev Byte := BitVec 8

/-- `Addr16` of R10: a CPU or PPU bus address. -/
abbrev Addr16 := BitVec 16

/-- `Time` of R10: a PPU-cycle count. -/
abbrev Time := BitVec 64

/-- The tag of an event record (30_encoding.md R70). -/
abbrev Tag := BitVec 4

end Sys2Proof
end

