-- ==== Sys2Proof/Config.lean ====
section
/-! DEFINITION. The configuration `cfg` of 00_scope.md R8: every parameter as plain data.
`DECODE` and `BANK_INDEX` are functions in the spec; here each is a decision tree over address bits (log 5),
read by `AddrMap.lookup` (Machine/Configuration.lean). -/

namespace Sys2Proof

/-- A function of a 16-bit address, as data: decide on one address bit after another, then answer. -/
inductive AddrMap (α : Type) where
  /-- The same answer for every address that comes here. -/
  | leaf (answer : α)
  /-- Go to `zero` when address bit `bit` is 0, to `one` when it is 1. -/
  | test (bit : Fin 16) (zero one : AddrMap α)
deriving DecidableEq, Repr

/-- `Op` of 30_encoding.md R74: what a CPU write address selects. -/
inductive RegOp where
  | bankSelect (i : Nat)
  | irqReloadValue
  | irqLatch
  | irqEnable
  | irqAck
  | unmapped
deriving DecidableEq, Repr

/-- The region of a bank query (R70: PRG = 0, CHR = 1). -/
inductive Region where
  | prg
  | chr
deriving DecidableEq, Repr

/-- `BANK_INDEX`: one map for each region. -/
structure BankMap where
  prg : AddrMap (Option Nat)
  chr : AddrMap (Option Nat)
deriving DecidableEq, Repr

/-- `ZERO_POLICY` (41_irq_counter.md R122). -/
inductive ZeroPolicy where
  | reloadOnTrigger
  | holdAtBoundary
deriving DecidableEq, Repr

/-- `RELOAD_WRITE_POLICY` (41_irq_counter.md R124, 42_register_writes.md R154). -/
inductive ReloadWritePolicy where
  | deferred
  | immediate
deriving DecidableEq, Repr

/-- The parameters of R8. A value of this type need not be acceptable: `Config.valid` is R9's check. -/
structure Config where
  /-- `FILTER_WINDOW`, in PPU cycles. -/
  filterWindow : Nat
  /-- `FILTER_STRICT`: false accepts at exactly the window, true does not. -/
  filterStrict : Bool
  /-- `A12_PREV_RESET`; true is level 1. -/
  a12PrevReset : Bool
  /-- `COUNTER_WIDTH`, W. -/
  counterWidth : Nat
  zeroPolicy : ZeroPolicy
  reloadWritePolicy : ReloadWritePolicy
  /-- `NUM_BANK_REGS`, N. -/
  numBankRegs : Nat
  /-- `BANK_WIDTH`. -/
  bankWidth : Nat
  /-- `DECODE`. -/
  decode : AddrMap RegOp
  /-- `BANK_INDEX`. -/
  bankIndex : BankMap
  /-- `SOFT_RESET_CLEARS_ENABLE`. -/
  softResetClearsEnable : Bool
deriving DecidableEq, Repr

end Sys2Proof
end

