-- ==== Sys2Proof/Machine/Configuration.lean ====
section
/-! DEFINITION. How the configuration is read: the address maps, the reference configuration `REF` (00_scope.md R8)
and the acceptance check of CONSTRUCT (R9). -/

namespace Sys2Proof

/-- The map's answer for an address. -/
def AddrMap.lookup {α : Type} : AddrMap α → Addr16 → α
  | .leaf answer, _ => answer
  | .test bit zero one, a => if a.getLsbD bit then one.lookup a else zero.lookup a

/-- The answers of the map for the addresses whose bits are as `known` says: exactly the ones it can return. A bit
that was tested above is not tested again. -/
def AddrMap.outputsFrom {α : Type} : AddrMap α → List (Fin 16 × Bool) → List α
  | .leaf answer, _ => [answer]
  | .test bit zero one, known =>
    match known.lookup bit with
    | some true => one.outputsFrom known
    | some false => zero.outputsFrom known
    | none => zero.outputsFrom ((bit, false) :: known) ++ one.outputsFrom ((bit, true) :: known)

/-- Every answer the map can return. -/
def AddrMap.outputs {α : Type} (m : AddrMap α) : List α :=
  m.outputsFrom []

/-- `BANK_INDEX(r, a)` (43_bus_queries.md R182). DESIGN CHOICE (log 16): the CHR map is given the whole 16-bit address, as
R183 writes it, although 20_memory.md R50 says that bits 15:14 of a PPU address are ignored; `bankIndexRef` ignores
them, another map may read them. -/
def BankMap.lookup (m : BankMap) (r : Region) (a : Addr16) : Option Nat :=
  match r with
  | .prg => m.prg.lookup a
  | .chr => m.chr.lookup a

/-- Four answers, chosen by the address bits `hi` and `lo` read as a two-bit number. -/
def AddrMap.four {α : Type} (hi lo : Fin 16) (v0 v1 v2 v3 : α) : AddrMap α :=
  .test hi (.test lo (.leaf v0) (.leaf v1)) (.test lo (.leaf v2) (.leaf v3))

/-- The `$8000` page of `decodeRef`: the bank index is a[2:0] (R74). -/
def decodeRefBankPage : AddrMap RegOp :=
  .test 2
    (.four 1 0 (.bankSelect 0) (.bankSelect 1) (.bankSelect 2) (.bankSelect 3))
    (.four 1 0 (.bankSelect 4) (.bankSelect 5) (.bankSelect 6) (.bankSelect 7))

/-- The `$F000` page of `decodeRef`: the operation is chosen by a[1:0] (R74). -/
def decodeRefIrqPage : AddrMap RegOp :=
  .four 1 0 .irqReloadValue .irqLatch .irqEnable .irqAck

/-- `decodeRef` of R74: page a[15:12] = 8 selects a bank, page F an IRQ operation, every other page is unmapped. -/
def decodeRef : AddrMap RegOp :=
  .test 15 (.leaf .unmapped)
    (.test 14
      (.test 13 (.test 12 decodeRefBankPage (.leaf .unmapped)) (.leaf .unmapped))
      (.test 13 (.leaf .unmapped) (.test 12 (.leaf .unmapped) decodeRefIrqPage)))

/-- `bankIndexRef` of 43_bus_queries.md R182. -/
def bankIndexRef : BankMap where
  prg := .test 15 (.leaf none) (.four 14 13 (some 0) (some 1) (some 2) (some 3))
  chr := .test 13 (.four 12 11 (some 4) (some 5) (some 6) (some 7)) (.leaf none)

/-- `REF`, the reference configuration (R8). -/
def Config.ref : Config where
  filterWindow := 16
  filterStrict := false
  a12PrevReset := false
  counterWidth := 8
  zeroPolicy := .reloadOnTrigger
  reloadWritePolicy := .deferred
  numBankRegs := 8
  bankWidth := 8
  decode := decodeRef
  bankIndex := bankIndexRef
  softResetClearsEnable := false

/-- The bank index an operation carries. -/
def RegOp.index? : RegOp → Option Nat
  | .bankSelect i => some i
  | .irqReloadValue => none
  | .irqLatch => none
  | .irqEnable => none
  | .irqAck => none
  | .unmapped => none

/-- A bank index, if there is one, names a bank register. -/
def indexBelow (n : Nat) (i : Option Nat) : Bool :=
  match i with
  | none => true
  | some i => decide (i < n)

/-- `configValid` of R9. -/
def Config.valid (cfg : Config) : Bool :=
  decide (1 ≤ cfg.counterWidth) && decide (cfg.counterWidth ≤ 8)
    && decide (1 ≤ cfg.numBankRegs) && decide (cfg.numBankRegs ≤ 8)
    && decide (1 ≤ cfg.bankWidth) && decide (cfg.bankWidth ≤ 8)
    && decide (cfg.filterWindow < 2 ^ 64)
    && cfg.decode.outputs.all (fun op => indexBelow cfg.numBankRegs op.index?)
    && cfg.bankIndex.prg.outputs.all (indexBelow cfg.numBankRegs)
    && cfg.bankIndex.chr.outputs.all (indexBelow cfg.numBankRegs)

end Sys2Proof
end

