-- ==== Sys2Proof/Syntax.lean ====
section
/-! DEFINITION. The events of 30_encoding.md R70 as an abstract syntax, and the event records that spell them.
CPU_WRITE stands as the register operations its address selects (R74, opcode_table.json). -/

namespace Sys2Proof

/-- One event. The six CPU_WRITE operations keep the written address and data byte whole, so that no bit of the
record is lost; the address bits and data bits an operation ignores (R75, R77) stay in the syntax and are ignored by
its meaning. -/
inductive Instr where
  /-- BANK_SELECT (42_register_writes.md R150): `i` is the index DECODE gives the address. -/
  | bankSelect (i : Nat) (a : Addr16) (d : Byte)
  /-- IRQ_RELOAD_VALUE (R153). -/
  | irqReloadValue (a : Addr16) (d : Byte)
  /-- IRQ_LATCH (R156). -/
  | irqLatch (a : Addr16) (d : Byte)
  /-- IRQ_ENABLE (R158). -/
  | irqEnable (a : Addr16) (d : Byte)
  /-- IRQ_ACK (R160). -/
  | irqAck (a : Addr16) (d : Byte)
  /-- UNMAPPED_WRITE (R162). -/
  | unmappedWrite (a : Addr16) (d : Byte)
  /-- PPU_ADDR (40_a12_filter.md R104). -/
  | ppuAddr (a : Addr16) (t : Time)
  /-- IRQ_POLL (43_bus_queries.md R180). -/
  | irqPoll
  /-- QUERY_BANK (R183). -/
  | queryBank (r : Region) (a : Addr16)
  /-- RESET_HARD (70_reset_and_hazards.md R252). -/
  | resetHard
  /-- RESET_SOFT (R253). -/
  | resetSoft
  /-- SERIALIZE (44_save_state.md R202). -/
  | serialize
  /-- DESERIALIZE (R205). -/
  | deserialize (bytes : List Byte)
  /-- PEEK_BANK (43_bus_queries.md R185). -/
  | peekBank (i : Nat)
  /-- PEEK_COUNT (R186). -/
  | peekCount
  /-- CONSTRUCT (70_reset_and_hazards.md R250). -/
  | construct (cfg : Config)
deriving DecidableEq, Repr

/-- The eleven event kinds of R70. -/
inductive EventKind where
  | cpuWrite
  | ppuAddr
  | irqPoll
  | queryBank
  | resetHard
  | resetSoft
  | serialize
  | deserialize
  | peekBank
  | peekCount
  | construct
deriving DecidableEq, Repr

/-- What a record carries beside its tag (R71 to R73; log 4). -/
inductive Payload where
  /-- No fields. -/
  | empty
  /-- A fixed-width record read as one number, bit 0 the least significant (R71, R72, R73). -/
  | word (v : Nat)
  /-- The natural index of PEEK_BANK (R73). -/
  | index (i : Nat)
  /-- The byte list of DESERIALIZE, of any length (R73, R78). -/
  | bytes (l : List Byte)
  /-- The configuration of CONSTRUCT (R70). -/
  | config (cfg : Config)
deriving DecidableEq, Repr

/-- An event record: the tag and what goes with it. -/
structure Record where
  tag : Tag
  payload : Payload
deriving DecidableEq, Repr

/-- Why a record spells no event. -/
inductive DecodeError where
  /-- The tag is 0xB to 0xF (R70). -/
  | unknownEvent
  /-- The payload has not the format of the tag's event (R78; log 4). -/
  | malformedRecord
deriving DecidableEq, Repr

end Sys2Proof
end

