-- ==== Sys2Proof/Machine/State.lean ====
section
/-! DEFINITION. The state as plain data: the block's own record S (10_state.md R22), the configuration it was built
with, whether it exists, the events still to come and the last response. -/

namespace Sys2Proof.Machine

/-- The state record S of 10_state.md R22, no more and no less. The ranges of R33 (a) are `Block.inRange`
(Safety.lean). -/
structure Block where
  /-- R23; below 2^W. -/
  count : Byte
  /-- R24; below 2^W. -/
  reload : Byte
  /-- R25. -/
  enabled : Bool
  /-- R26: the pending-IRQ flag, which is the level of the IRQ line (43_bus_queries.md R181). -/
  pending : Bool
  /-- R27: bank[0] .. bank[N-1], each below 2^BANK_WIDTH. -/
  banks : List Byte
  /-- R28: the time of the last accepted rising transition. -/
  lastEdge : Option Time
  /-- R29: the A12 level of the last PPU_ADDR; true is level 1. -/
  a12Prev : Bool
deriving DecidableEq, Repr

/-- A constructed block: its configuration, fixed while it exists (00_scope.md R8), and its state record. -/
structure Chip where
  cfg : Config
  blk : Block
deriving DecidableEq, Repr

/-- The errors the interface reports with the state unchanged: `Err` of 00_scope.md R7, codes of 60_exceptions.md R225. -/
inductive ErrCode where
  /-- DESERIALIZE of a record that is not valid. -/
  | loadFailure
  /-- CONSTRUCT with a configuration that is not acceptable. -/
  | configError
deriving DecidableEq, Repr

/-- What the last event answered: `resp` of R7, or the error it reported (log 3). -/
inductive Response where
  /-- The event returns nothing. -/
  | nothing
  /-- IRQ_POLL. -/
  | bool (b : Bool)
  /-- QUERY_BANK and PEEK_BANK. -/
  | bank (b : Option Byte)
  /-- PEEK_COUNT. -/
  | count (c : Byte)
  /-- SERIALIZE. -/
  | bytes (l : List Byte)
  /-- An `Err` outcome. -/
  | err (e : ErrCode)
deriving DecidableEq, Repr

/-- The `Fault` outcomes of 60_exceptions.md R225: events outside the contract, after which the run has no meaning.
All are safe: the machine stops where the spec says nothing follows. -/
inductive Fault where
  /-- Raised by PPU_ADDR on a rising transition at a time below `lastEdge` (40_a12_filter.md R104). Safe. -/
  | timeRegression
  /-- Raised by every event but CONSTRUCT when no block exists (70_reset_and_hazards.md R251). Safe. -/
  | notConstructed
  /-- Raised by CONSTRUCT when the block exists (R250). Safe. -/
  | alreadyConstructed
  /-- Raised by the step on a record with tag 0xB to 0xF (30_encoding.md R70). Safe. -/
  | unknownEvent
deriving DecidableEq, Repr

/-- Why the model gives no outcome. -/
inductive Refusal where
  /-- Raised by the dispatch for an instruction that has no meaning yet; no arm raises it now. Safe. -/
  | notModelled (mnemonic : String)
  /-- Raised by the step on a record whose payload has not its tag's format: it spells no event (log 4). Safe. -/
  | malformedRecord
deriving DecidableEq, Repr

/-- The whole machine. -/
structure State where
  /-- The block; `none` before a successful CONSTRUCT (R251). -/
  chip : Option Chip
  /-- The events not yet applied, in the environment's order, oldest first (00_scope.md R6; log 2). -/
  inbox : List Record
  /-- The answer of the last event (R7; log 3). -/
  resp : Response
deriving DecidableEq, Repr

/-- Right after RESET_HARD (10_state.md R34) of a block in the reference configuration (log 1), with no event waiting. -/
def State.reset : State where
  chip := some {
    cfg := Config.ref
    blk := {
      count := 0
      reload := 0
      enabled := false
      pending := false
      banks := [0, 0, 0, 0, 0, 0, 0, 0]
      lastEdge := none
      a12Prev := false } }
  inbox := []
  resp := .nothing

/-- Before CONSTRUCT: no block exists (70_reset_and_hazards.md R251). -/
def State.unbuilt : State where
  chip := none
  inbox := []
  resp := .nothing

end Sys2Proof.Machine
end

