-- ==== Sys2Proof/Machine/Flags.lean ====
section
/-! DEFINITION. The two flags, `enabled` and `pending` (10_state.md R30): their writers and the trigger test. -/

namespace Sys2Proof.Machine

/-- `S.pending <- true` (a trigger, 41_irq_counter.md R121). -/
def raisePending (b : Block) : Block :=
  { b with pending := true }

/-- `S.pending <- false` (42_register_writes.md R160 and the resets). -/
def clearPending (b : Block) : Block :=
  { b with pending := false }

/-- `S.enabled <- e` (R158). -/
def setEnabled (b : Block) (e : Bool) : Block :=
  { b with enabled := e }

/-- The trigger test of a clean edge (41_irq_counter.md R121): the new count is 0 while enabled. -/
def triggers (b : Block) (next : Byte) : Bool :=
  decide (next = 0) && b.enabled

end Sys2Proof.Machine
end

