-- ==== Sys2Proof/Machine/IrqCounter.lean ====
section
/-! DEFINITION. The IrqCounter: its clock and its reset (41_irq_counter.md). -/

namespace Sys2Proof.Machine

/-- The count after the decrement or reload of a clean edge (R120): a zero count is reloaded, not decremented. -/
def nextCount (b : Block) : Byte :=
  if b.count = 0 then b.reload else b.count - 1

/-- The count left by a trigger (R122). -/
def countAfterTrigger (cfg : Config) (b : Block) : Byte :=
  match cfg.zeroPolicy with
  | .reloadOnTrigger => b.reload
  | .holdAtBoundary => 0

/-- `counterClock` (R120): one clean edge. The Bool says whether it was a trigger. -/
def counterClock (cfg : Config) (b : Block) : Block × Bool :=
  if triggers b (nextCount b) then
    (raisePending { b with count := countAfterTrigger cfg b }, true)
  else ({ b with count := nextCount b }, false)

/-- `counterReset(hard)` (R128). -/
def counterReset (cfg : Config) (hard : Bool) (b : Block) : Block :=
  if hard then
    clearPending (setEnabled { b with count := 0, reload := 0 } false)
  else if cfg.softResetClearsEnable then clearPending (setEnabled b false)
  else clearPending b

end Sys2Proof.Machine
end

