-- ==== Sys2Proof/Machine/Operands.lean ====
section
/-! DEFINITION. How events use their operands (30_encoding.md R71 to R75): the A12 line of an address, the truncations
of a data byte and the enable bit. -/

namespace Sys2Proof.Machine

/-- `trunc_n(v)` of 00_scope.md R11: v mod 2^n. -/
def trunc (n : Nat) (v : Byte) : Byte :=
  BitVec.ofNat 8 (v.toNat % 2 ^ n)

/-- `trunc_W(d)`: the data of IRQ_RELOAD_VALUE (R75). -/
def countOfData (cfg : Config) (d : Byte) : Byte :=
  trunc cfg.counterWidth d

/-- `trunc_BANK_WIDTH(d)`: the data of BANK_SELECT (R75). -/
def bankOfData (cfg : Config) (d : Byte) : Byte :=
  trunc cfg.bankWidth d

/-- `d[0] = 1`: the data of IRQ_ENABLE (R75). -/
def enableOfData (d : Byte) : Bool :=
  d.getLsbD 0

/-- The A12 line of a PPU address: bit 12, the only bit read (R72). -/
def a12 (a : Addr16) : Bool :=
  a.getLsbD 12

end Sys2Proof.Machine
end

