-- ==== Sys2Proof/Machine/Ops.lean ====
section
/-! DEFINITION. The shared operations: acting on the existing block, and the three ways an event ends (00_scope.md R7).
The block takes no exceptions (60_exceptions.md R220, R222), so there is no exception entry and no return here: the
faults of R225 stop the run, and its errors are answers. -/

namespace Sys2Proof.Machine

/-- The outcome of a step or of a meaning. -/
abbrev StepOutcome := Host.Outcome State Fault Refusal

/-- The number R225 gives an error. -/
def ErrCode.code : ErrCode → Nat
  | .loadFailure => 1
  | .configError => 2

/-- The number R225 gives a fault. -/
def Fault.code : Fault → Nat
  | .timeRegression => 3
  | .notConstructed => 4
  | .alreadyConstructed => 5
  | .unknownEvent => 6

/-- Every event but CONSTRUCT acts on the existing block and faults when there is none (70_reset_and_hazards.md R251). -/
def onChip (s : State) (act : Chip → StepOutcome) : StepOutcome :=
  match s.chip with
  | none => .fault .notConstructed
  | some c => act c

/-- `Ok(S', none)`: the block's record is now `b`, and nothing is answered. The configuration is kept (00_scope.md R8). -/
def update (s : State) (c : Chip) (b : Block) : StepOutcome :=
  .next { s with chip := some { c with blk := b }, resp := .nothing }

/-- `Ok(S, r)`: the event reads only. -/
def answer (s : State) (r : Response) : StepOutcome :=
  .next { s with resp := r }

/-- `Err(e, S)`: reported, the state unchanged. -/
def report (s : State) (e : ErrCode) : StepOutcome :=
  .next { s with resp := .err e }

/-- The bank register `i` read; there is none past the last one. -/
def readBank (b : Block) (i : Nat) : Option Byte :=
  b.banks[i]?

/-- The bank register `i` written. A valid configuration never selects one that does not exist (R9), and then nothing
would be written. -/
def writeBank (b : Block) (i : Nat) (v : Byte) : Block :=
  { b with banks := b.banks.set i v }

/-- The level of the IRQ line: the pending flag (43_bus_queries.md R181). DESIGN CHOICE (log 17): R181 gives the level of a
block that exists, and the spec is silent on the line before CONSTRUCT; the model says false there. -/
def State.irqLine (s : State) : Bool :=
  match s.chip with
  | none => false
  | some c => c.blk.pending

/-- The `DECODE` in force. Before CONSTRUCT there is no configuration and so no register window; every write then
faults whatever it decodes to (log 6). -/
def State.decodeMap (s : State) : AddrMap RegOp :=
  match s.chip with
  | none => .leaf .unmapped
  | some c => c.cfg.decode

end Sys2Proof.Machine
end

