-- ==== Sys2Proof/Machine/A12Filter.lean ====
section
/-! DEFINITION. The A12EdgeFilter and PPU_ADDR (40_a12_filter.md). -/

namespace Sys2Proof.Machine

/-- A rising transition: the level was 0 and is 1 (R101). -/
def rising (b : Block) (a : Addr16) : Bool :=
  !b.a12Prev && a12 a

/-- Is a rising transition `delta` cycles after the last accepted one accepted (R102)? -/
def spacedEnough (cfg : Config) (delta : Nat) : Bool :=
  if cfg.filterStrict then decide (cfg.filterWindow < delta) else decide (cfg.filterWindow ≤ delta)

/-- `filterAccept(last, t)` (R102). -/
def filterAccept (cfg : Config) (last : Option Time) (t : Time) : Except Fault Bool :=
  match last with
  | none => .ok true
  | some l =>
    if t.toNat < l.toNat then .error .timeRegression
    else .ok (spacedEnough cfg (t.toNat - l.toNat))

/-- Commit of an accepted edge (R103): remember its time, clock the counter once. -/
def commitEdge (cfg : Config) (b : Block) (t : Time) : Block :=
  (counterClock cfg { b with lastEdge := some t }).1

/-- The block after PPU_ADDR, or the fault that leaves it as it was (R104). DESIGN CHOICE (log 15): 20_memory.md R52 calls
PPU_ADDR not idempotent, but by R101 and R104 the same event at once again is no rising transition and changes nothing;
the model follows R101 and R104. -/
def observeAddress (cfg : Config) (b : Block) (a : Addr16) (t : Time) : Except Fault Block :=
  if rising b a then
    match filterAccept cfg b.lastEdge t with
    | .error f => .error f
    | .ok true => .ok (commitEdge cfg { b with a12Prev := a12 a } t)
    | .ok false => .ok { b with a12Prev := a12 a }
  else .ok { b with a12Prev := a12 a }

/-- PPU_ADDR (R104). -/
def execPpuAddr (a : Addr16) (t : Time) (s : State) : StepOutcome :=
  onChip s fun c =>
    match observeAddress c.cfg c.blk a t with
    | .error f => .fault f
    | .ok b => update s c b

end Sys2Proof.Machine
end

