-- ==== Sys2Proof/Machine/BusQueries.lean ====
section
/-! DEFINITION. The events that read and never change the block (43_bus_queries.md). -/

namespace Sys2Proof.Machine

/-- IRQ_POLL (R180). -/
def execIrqPoll (s : State) : StepOutcome :=
  onChip s fun c => answer s (.bool c.blk.pending)

/-- The bank number a query sees (R183). -/
def queriedBank (c : Chip) (r : Region) (a : Addr16) : Option Byte :=
  match c.cfg.bankIndex.lookup r a with
  | none => none
  | some i => readBank c.blk i

/-- QUERY_BANK (R183). -/
def execQueryBank (r : Region) (a : Addr16) (s : State) : StepOutcome :=
  onChip s fun c => answer s (.bank (queriedBank c r a))

/-- The bank register the debugger sees (R185). -/
def peekedBank (c : Chip) (i : Nat) : Option Byte :=
  if i < c.cfg.numBankRegs then readBank c.blk i else none

/-- PEEK_BANK (R185). -/
def execPeekBank (i : Nat) (s : State) : StepOutcome :=
  onChip s fun c => answer s (.bank (peekedBank c i))

/-- PEEK_COUNT (R186). -/
def execPeekCount (s : State) : StepOutcome :=
  onChip s fun c => answer s (.count c.blk.count)

end Sys2Proof.Machine
end

