-- ==== Sys2Proof/Machine/Lifecycle.lean ====
section
/-! DEFINITION. Construction and the two resets (70_reset_and_hazards.md). -/

namespace Sys2Proof.Machine

/-- The filter part of every reset (R252, R253): no last edge, the A12 level assumed. -/
def filterReset (cfg : Config) (b : Block) : Block :=
  { b with lastEdge := none, a12Prev := cfg.a12PrevReset }

/-- All N bank registers at 0. -/
def banksReset (cfg : Config) (b : Block) : Block :=
  { b with banks := List.replicate cfg.numBankRegs 0 }

/-- The block after RESET_HARD (R252). -/
def hardReset (cfg : Config) (b : Block) : Block :=
  filterReset cfg (banksReset cfg (counterReset cfg true b))

/-- The block after RESET_SOFT (R253): count, reload and the banks are kept. -/
def softReset (cfg : Config) (b : Block) : Block :=
  filterReset cfg (counterReset cfg false b)

/-- The block CONSTRUCT creates (R250); the state after it is the state after RESET_HARD (10_state.md R34). -/
def freshBlock (cfg : Config) : Block :=
  hardReset cfg
    { count := 0, reload := 0, enabled := false, pending := false, banks := [], lastEdge := none, a12Prev := false }

/-- RESET_HARD (R252). -/
def execResetHard (s : State) : StepOutcome :=
  onChip s fun c => update s c (hardReset c.cfg c.blk)

/-- RESET_SOFT (R253). -/
def execResetSoft (s : State) : StepOutcome :=
  onChip s fun c => update s c (softReset c.cfg c.blk)

/-- CONSTRUCT (R250): the only event that acts when no block exists. -/
def execConstruct (cfg : Config) (s : State) : StepOutcome :=
  match s.chip with
  | some _ => .fault .alreadyConstructed
  | none =>
    if cfg.valid then .next { s with chip := some { cfg := cfg, blk := freshBlock cfg }, resp := .nothing }
    else report s .configError

end Sys2Proof.Machine
end

