-- ==== Sys2Proof/Machine/RegisterWrites.lean ====
section
/-! DEFINITION. The register operations of CPU_WRITE (42_register_writes.md). The decoder has already chosen the
operation by the address (R149); the address is then no operand of any of them. -/

namespace Sys2Proof.Machine

/-- BANK_SELECT (R150). -/
def execBankSelect (i : Nat) (_a : Addr16) (d : Byte) (s : State) : StepOutcome :=
  onChip s fun c => update s c (writeBank c.blk i (bankOfData c.cfg d))

/-- `irqReloadValue(d)` (R153), with the immediate load of R154. -/
def writeReload (cfg : Config) (b : Block) (d : Byte) : Block :=
  match cfg.reloadWritePolicy with
  | .deferred => { b with reload := countOfData cfg d }
  | .immediate => { b with reload := countOfData cfg d, count := countOfData cfg d }

/-- IRQ_RELOAD_VALUE (R153, R154). -/
def execIrqReloadValue (_a : Addr16) (d : Byte) (s : State) : StepOutcome :=
  onChip s fun c => update s c (writeReload c.cfg c.blk d)

/-- IRQ_LATCH (R156): the next clean edge reloads. -/
def execIrqLatch (_a : Addr16) (_d : Byte) (s : State) : StepOutcome :=
  onChip s fun c => update s c { c.blk with count := 0 }

/-- IRQ_ENABLE (R158). -/
def execIrqEnable (_a : Addr16) (d : Byte) (s : State) : StepOutcome :=
  onChip s fun c => update s c (setEnabled c.blk (enableOfData d))

/-- IRQ_ACK (R160). -/
def execIrqAck (_a : Addr16) (_d : Byte) (s : State) : StepOutcome :=
  onChip s fun c => update s c (clearPending c.blk)

/-- UNMAPPED_WRITE (R162): silently nothing. -/
def execUnmappedWrite (_a : Addr16) (_d : Byte) (s : State) : StepOutcome :=
  onChip s fun c => update s c c.blk

end Sys2Proof.Machine
end

