-- ==== Sys2Proof/Machine/SaveState.lean ====
section
/-! DEFINITION. The save record and its two hooks (44_save_state.md). -/

namespace Sys2Proof.Machine

/-- The flags byte at offset 3 (R201): bits 7:4 zero, then lastEdge present, a12Prev, pending, enabled. -/
def flagsByte (b : Block) : Byte :=
  0#4 ++ BitVec.ofBool b.lastEdge.isSome ++ BitVec.ofBool b.a12Prev ++ BitVec.ofBool b.pending
    ++ BitVec.ofBool b.enabled

/-- Byte `k` of a time, byte 0 the lowest (R201, 20_memory.md R53). -/
def timeByte (t : Time) (k : Nat) : Byte :=
  t.extractLsb' (8 * k) 8

/-- The eight time bytes, lowest first. -/
def timeBytes (t : Time) : List Byte :=
  [timeByte t 0, timeByte t 1, timeByte t 2, timeByte t 3, timeByte t 4, timeByte t 5, timeByte t 6, timeByte t 7]

/-- The time a record holds; 0 stands in its bytes when there is none (R201). -/
def savedTime (b : Block) : Time :=
  b.lastEdge.getD 0

/-- The save record (R202). -/
def saveRecord (cfg : Config) (b : Block) : List Byte :=
  [0x01, b.count, b.reload, flagsByte b] ++ timeBytes (savedTime b) ++ [BitVec.ofNat 8 cfg.numBankRegs] ++ b.banks

/-- Byte `k` of a record. -/
def recordByte (l : List Byte) (k : Nat) : Byte :=
  l.getD k 0

/-- The seven checks of R203, in its order. -/
def recordValid (cfg : Config) (l : List Byte) : Bool :=
  decide (l.length = 13 + cfg.numBankRegs)
    && decide (recordByte l 0 = 0x01)
    && (decide ((recordByte l 1).toNat < 2 ^ cfg.counterWidth) && decide ((recordByte l 2).toNat < 2 ^ cfg.counterWidth))
    && decide ((recordByte l 3).extractLsb' 4 4 = 0)
    && ((recordByte l 3).getLsbD 3 || ((l.drop 4).take 8).all (fun x => decide (x = 0)))
    && decide ((recordByte l 12).toNat = cfg.numBankRegs)
    && (l.drop 13).all (fun x => decide (x.toNat < 2 ^ cfg.bankWidth))

/-- The time in bytes 4 to 11 (R205): the concatenation of byte 11 down to byte 4. -/
def recordTime (l : List Byte) : Time :=
  recordByte l 11 ++ recordByte l 10 ++ recordByte l 9 ++ recordByte l 8
    ++ recordByte l 7 ++ recordByte l 6 ++ recordByte l 5 ++ recordByte l 4

/-- The block a valid record describes (R205): every field comes from the record. -/
def loadRecord (cfg : Config) (l : List Byte) : Block where
  count := trunc cfg.counterWidth (recordByte l 1)
  reload := trunc cfg.counterWidth (recordByte l 2)
  enabled := (recordByte l 3).getLsbD 0
  pending := (recordByte l 3).getLsbD 1
  banks := ((l.drop 13).take cfg.numBankRegs).map (trunc cfg.bankWidth)
  lastEdge := if (recordByte l 3).getLsbD 3 then some (recordTime l) else none
  a12Prev := (recordByte l 3).getLsbD 2

/-- SERIALIZE (R202). -/
def execSerialize (s : State) : StepOutcome :=
  onChip s fun c => answer s (.bytes (saveRecord c.cfg c.blk))

/-- DESERIALIZE (R205). -/
def execDeserialize (l : List Byte) (s : State) : StepOutcome :=
  onChip s fun c =>
    if recordValid c.cfg l then update s c (loadRecord c.cfg l) else report s .loadFailure

end Sys2Proof.Machine
end

