-- ==== Sys2Proof/Machine/Dispatch.lean ====
section
/-! DEFINITION. One arm per event. -/

namespace Sys2Proof.Machine

def exec (i : Instr) (s : State) : Host.Outcome State Fault Refusal :=
  match i with
  | .bankSelect k a d => Sys2Proof.Machine.execBankSelect k a d s
  | .irqReloadValue a d => Sys2Proof.Machine.execIrqReloadValue a d s
  | .irqLatch a d => Sys2Proof.Machine.execIrqLatch a d s
  | .irqEnable a d => Sys2Proof.Machine.execIrqEnable a d s
  | .irqAck a d => Sys2Proof.Machine.execIrqAck a d s
  | .unmappedWrite a d => Sys2Proof.Machine.execUnmappedWrite a d s
  | .ppuAddr a t => Sys2Proof.Machine.execPpuAddr a t s
  | .irqPoll => Sys2Proof.Machine.execIrqPoll s
  | .queryBank r a => Sys2Proof.Machine.execQueryBank r a s
  | .resetHard => Sys2Proof.Machine.execResetHard s
  | .resetSoft => Sys2Proof.Machine.execResetSoft s
  | .serialize => Sys2Proof.Machine.execSerialize s
  | .deserialize l => Sys2Proof.Machine.execDeserialize l s
  | .peekBank k => Sys2Proof.Machine.execPeekBank k s
  | .peekCount => Sys2Proof.Machine.execPeekCount s
  | .construct cfg => Sys2Proof.Machine.execConstruct cfg s

end Sys2Proof.Machine
end

