-- ==== Sys2Proof/WellFormed.lean ====
section
/-! DEFINITION. When an event is one that a block with decode map `dec` can be given: a register operation must be the
one its address selects (30_encoding.md R74). Every other event is well formed, whatever its operands: an index at or
above N (R73), a malformed save record (R73) and an unacceptable configuration are legal events with an answer of
their own. -/

namespace Sys2Proof

/-- `dec` selects the register operation `op` at address `a`. -/
def selects (dec : AddrMap RegOp) (a : Addr16) (op : RegOp) : Bool :=
  decide (dec.lookup a = op)

/-- The event can stand in a record for a block whose `DECODE` is `dec`. -/
def Instr.wf (dec : AddrMap RegOp) : Instr → Bool
  | .bankSelect i a _ => selects dec a (.bankSelect i)
  | .irqReloadValue a _ => selects dec a .irqReloadValue
  | .irqLatch a _ => selects dec a .irqLatch
  | .irqEnable a _ => selects dec a .irqEnable
  | .irqAck a _ => selects dec a .irqAck
  | .unmappedWrite a _ => selects dec a .unmapped
  | .ppuAddr _ _ => true
  | .irqPoll => true
  | .queryBank _ _ => true
  | .resetHard => true
  | .resetSoft => true
  | .serialize => true
  | .deserialize _ => true
  | .peekBank _ => true
  | .peekCount => true
  | .construct _ => true

end Sys2Proof
end

