-- ==== Sys2Proof/Decode.lean ====
section
/-! DEFINITION. From event records to events and back (30_encoding.md R70 to R78), the numbering of
opcode_table.json, and the pseudo-events of R79. -/

namespace Sys2Proof

/-- Bits `lo + n - 1 .. lo` of the number `v` (`v[hi:lo]` of 00_scope.md R11). -/
def bitField (v lo n : Nat) : BitVec n :=
  BitVec.ofNat n (v / 2 ^ lo)

/-- The event a tag spells (R70). -/
def kindOfTag (tag : Tag) : Option EventKind :=
  match tag.toNat with
  | 0x0 => some .cpuWrite
  | 0x1 => some .ppuAddr
  | 0x2 => some .irqPoll
  | 0x3 => some .queryBank
  | 0x4 => some .resetHard
  | 0x5 => some .resetSoft
  | 0x6 => some .serialize
  | 0x7 => some .deserialize
  | 0x8 => some .peekBank
  | 0x9 => some .peekCount
  | 0xA => some .construct
  | _ => none

/-- The register operation `op` as an event, written at address `a` with data `d` (42_register_writes.md R149). -/
def writeInstr (op : RegOp) (a : Addr16) (d : Byte) : Instr :=
  match op with
  | .bankSelect i => .bankSelect i a d
  | .irqReloadValue => .irqReloadValue a d
  | .irqLatch => .irqLatch a d
  | .irqEnable => .irqEnable a d
  | .irqAck => .irqAck a d
  | .unmapped => .unmappedWrite a d

/-- The region bit of a QUERY_BANK record (R73). -/
def regionOfBit (b : Bool) : Region :=
  match b with
  | false => .prg
  | true => .chr

/-- CPU_WRITE (R71): 24 bits, a in 23:8, d in 7:0. -/
def decodeCpuWrite (dec : AddrMap RegOp) (v : Nat) : Except DecodeError Instr :=
  if v < 2 ^ 24 then
    .ok (writeInstr (dec.lookup (bitField v 8 16)) (bitField v 8 16) (bitField v 0 8))
  else .error .malformedRecord

/-- PPU_ADDR (R72): 80 bits, a in 79:64, t in 63:0. -/
def decodePpuAddr (v : Nat) : Except DecodeError Instr :=
  if v < 2 ^ 80 then .ok (.ppuAddr (bitField v 64 16) (bitField v 0 64)) else .error .malformedRecord

/-- QUERY_BANK (R73): 17 bits, the region in 16, a in 15:0. -/
def decodeQueryBank (v : Nat) : Except DecodeError Instr :=
  if v < 2 ^ 17 then .ok (.queryBank (regionOfBit (v.testBit 16)) (bitField v 0 16)) else .error .malformedRecord

/-- A payload read in the format of its event kind. -/
def decodePayload (dec : AddrMap RegOp) (kind : EventKind) (payload : Payload) : Except DecodeError Instr :=
  match kind, payload with
  | .cpuWrite, .word v => decodeCpuWrite dec v
  | .ppuAddr, .word v => decodePpuAddr v
  | .irqPoll, .empty => .ok .irqPoll
  | .queryBank, .word v => decodeQueryBank v
  | .resetHard, .empty => .ok .resetHard
  | .resetSoft, .empty => .ok .resetSoft
  | .serialize, .empty => .ok .serialize
  | .deserialize, .bytes l => .ok (.deserialize l)
  | .peekBank, .index i => .ok (.peekBank i)
  | .peekCount, .empty => .ok .peekCount
  | .construct, .config cfg => .ok (.construct cfg)
  | _, _ => .error .malformedRecord

/-- The event a record spells, for a block whose `DECODE` is `dec`: total on every record, rejecting by name. -/
def decode (dec : AddrMap RegOp) (r : Record) : Except DecodeError Instr :=
  match kindOfTag r.tag with
  | none => .error .unknownEvent
  | some kind => decodePayload dec kind r.payload

/-- The CPU_WRITE record of address `a` and data `d` (R71). -/
def writeRecord (a : Addr16) (d : Byte) : Record :=
  ⟨0x0, .word (a.toNat * 2 ^ 8 + d.toNat)⟩

/-- The bit that spells a region (R70). -/
def Region.bit : Region → Nat
  | .prg => 0
  | .chr => 1

/-- The record of an event. -/
def encode : Instr → Record
  | .bankSelect _ a d => writeRecord a d
  | .irqReloadValue a d => writeRecord a d
  | .irqLatch a d => writeRecord a d
  | .irqEnable a d => writeRecord a d
  | .irqAck a d => writeRecord a d
  | .unmappedWrite a d => writeRecord a d
  | .ppuAddr a t => ⟨0x1, .word (a.toNat * 2 ^ 64 + t.toNat)⟩
  | .irqPoll => ⟨0x2, .empty⟩
  | .queryBank r a => ⟨0x3, .word (r.bit * 2 ^ 16 + a.toNat)⟩
  | .resetHard => ⟨0x4, .empty⟩
  | .resetSoft => ⟨0x5, .empty⟩
  | .serialize => ⟨0x6, .empty⟩
  | .deserialize l => ⟨0x7, .bytes l⟩
  | .peekBank i => ⟨0x8, .index i⟩
  | .peekCount => ⟨0x9, .empty⟩
  | .construct cfg => ⟨0xA, .config cfg⟩

/-- A record of tag `tag` whose operands are all zero bits; the tag of CONSTRUCT alone stands for `CONSTRUCT REF`, as
in the programs of 95_test_vectors.md (log 9). -/
def zeroOperands (tag : Tag) : Payload :=
  match kindOfTag tag with
  | some .cpuWrite => .word 0
  | some .ppuAddr => .word 0
  | some .queryBank => .word 0
  | some .deserialize => .bytes []
  | some .peekBank => .index 0
  | some .construct => .config Config.ref
  | some .irqPoll => .empty
  | some .resetHard => .empty
  | some .resetSoft => .empty
  | some .serialize => .empty
  | some .peekCount => .empty
  | none => .empty

/-- The record that a word of opcode_table.json stands for (log 9): a row of more than one byte numbers the bits of
the 24-bit CPU_WRITE record (R71, R76), a row of one byte the bits of the tag (R70). A tag has four bits, so a word
with a bit above them is no tag. -/
def tableRecord (nbits w : Nat) : Option Record :=
  if 8 < nbits then some ⟨0x0, .word w⟩
  else if w < 16 then some ⟨BitVec.ofNat 4 w, zeroOperands (BitVec.ofNat 4 w)⟩
  else none

/-- What the decoder reads from a word of opcode_table.json, whose CPU_WRITE rows are those of `decodeRef` (R76). -/
def decodeTableWord (nbits w : Nat) : Option Instr :=
  match tableRecord nbits w with
  | none => none
  | some r =>
    match decode decodeRef r with
    | .ok i => some i
    | .error _ => none

/-! Pseudo-events of R79, under `decodeRef`. -/

/-- `BANK i, #$dd`, for 0 ≤ i ≤ 7. -/
def pseudoBank (i : Nat) (d : Byte) : List Record := [writeRecord (0x8000 + BitVec.ofNat 16 i) d]

/-- `IRQRELOAD #$dd`. -/
def pseudoIrqReload (d : Byte) : List Record := [writeRecord 0xF000 d]

/-- `IRQLATCH`. -/
def pseudoIrqLatch : List Record := [writeRecord 0xF001 0]

/-- `IRQEN #$0d`. -/
def pseudoIrqEn (d : Byte) : List Record := [writeRecord 0xF002 d]

/-- `IRQACK`. -/
def pseudoIrqAck : List Record := [writeRecord 0xF003 0]

/-- `LOW @ t`. -/
def pseudoLow (t : Time) : List Record := [encode (.ppuAddr 0x0000 t)]

/-- `EDGE @ t`: a low A12 level, then a rising transition. -/
def pseudoEdge (t : Time) : List Record := [encode (.ppuAddr 0x0000 t), encode (.ppuAddr 0x1000 t)]

end Sys2Proof
end

