-- ==== Sys2Proof/Machine/Fetch.lean ====
section
/-! DEFINITION. How an event reaches the block: the environment's ordered sequence (00_scope.md R6) is State.inbox, and
a step takes the oldest record (log 2). -/

namespace Sys2Proof.Machine

/-- The next record, and the machine with it taken. -/
def takeRecord (s : State) : Option (Record × State) :=
  match s.inbox with
  | [] => none
  | r :: rest => some (r, { s with inbox := rest })

/-- The machine when no event is waiting: the block never steps on its own (R5), so nothing changes. -/
def idle (s : State) : StepOutcome :=
  .next s

/-- The outcome of a record that spells no event (30_encoding.md R70, R78). -/
def rejectRecord (e : DecodeError) : StepOutcome :=
  match e with
  | .unknownEvent => .fault .unknownEvent
  | .malformedRecord => .refused .malformedRecord

/-- The event that a record spells for the block as it is (R74: through its own `DECODE`). -/
def readRecord (s : State) (r : Record) : Except DecodeError Instr :=
  decode s.decodeMap r

/-- `r` is the next event, before every one that waits already. -/
def deliverNext (s : State) (r : Record) : State :=
  { s with inbox := r :: s.inbox }

/-- The record of a word of opcode_table.json; a word that is none (a tag of more than four bits) is given with the
unused tag 0xF, so that the step rejects it (log 9). -/
def fetchWordRecord (nbits w : Nat) : Record :=
  (tableRecord nbits w).getD ⟨0xF, .empty⟩

end Sys2Proof.Machine
end

