-- ==== Sys2Proof/Machine/Step.lean ====
section
/-! DEFINITION. One step: take the oldest waiting record, decode it with the block's own `DECODE`, apply the event
whole (00_scope.md R6). -/

namespace Sys2Proof.Machine

/-- One step of the machine. -/
def step (s : State) : Host.Outcome State Fault Refusal :=
  match takeRecord s with
  | none => idle s
  | some (r, s') =>
    match readRecord s' r with
    | .ok i => exec i s'
    | .error e => rejectRecord e

/-- `s` with the record of a word of opcode_table.json as its next event (log 9). -/
def State.withFetchWord (s : State) (nbits w : Nat) : State :=
  deliverNext s (fetchWordRecord nbits w)

end Sys2Proof.Machine
end

