-- ==== Sys2Proof/Safety.lean ====
section
/-! DEFINITION. The words claims are stated in: the legal states (10_state.md R33), whole sequences of events, clean
edges in a row, and which outside agent issues which event (00_scope.md R5). -/

namespace Sys2Proof

open Sys2Proof.Machine

/-- The state of an outcome that has one. -/
def nextState? {σ φ ρ : Type} : Host.Outcome σ φ ρ → Option σ
  | .next s => some s
  | .fault _ => none
  | .refused _ => none

/-- The fault of an outcome that is one. -/
def fault? {σ φ ρ : Type} : Host.Outcome σ φ ρ → Option φ
  | .next _ => none
  | .fault f => some f
  | .refused _ => none

/-- The ranges of 10_state.md R33 (a), and N bank registers (R22). -/
structure Machine.Block.InRange (cfg : Config) (b : Block) : Prop where
  count_lt : b.count.toNat < 2 ^ cfg.counterWidth
  reload_lt : b.reload.toNat < 2 ^ cfg.counterWidth
  banks_length : b.banks.length = cfg.numBankRegs
  banks_lt : ∀ x ∈ b.banks, x.toNat < 2 ^ cfg.bankWidth

/-- A block that exists has an acceptable configuration and a record in range. -/
def Machine.State.Inv (s : State) : Prop :=
  ∀ c, s.chip = some c → c.cfg.valid = true ∧ c.blk.InRange c.cfg

/-- The seven checks of 44_save_state.md R203 on a save record, in its words; `l.getD k 0` is byte k. -/
structure SaveRecordOk (cfg : Config) (l : List Byte) : Prop where
  length_eq : l.length = 13 + cfg.numBankRegs
  format_tag : l.getD 0 0 = 0x01
  count_lt : (l.getD 1 0).toNat < 2 ^ cfg.counterWidth
  reload_lt : (l.getD 2 0).toNat < 2 ^ cfg.counterWidth
  high_flags_zero : (l.getD 3 0).extractLsb' 4 4 = 0
  no_time : (l.getD 3 0).getLsbD 3 = false → ∀ k, 4 ≤ k → k ≤ 11 → l.getD k 0 = 0
  bank_count : (l.getD 12 0).toNat = cfg.numBankRegs
  banks_lt : ∀ i, i < cfg.numBankRegs → (l.getD (13 + i) 0).toNat < 2 ^ cfg.bankWidth

/-- What 00_scope.md R9 asks of a configuration, in its words. -/
structure AcceptableConfig (cfg : Config) : Prop where
  counter_width : 1 ≤ cfg.counterWidth ∧ cfg.counterWidth ≤ 8
  bank_regs : 1 ≤ cfg.numBankRegs ∧ cfg.numBankRegs ≤ 8
  bank_width : 1 ≤ cfg.bankWidth ∧ cfg.bankWidth ≤ 8
  window : cfg.filterWindow < 2 ^ 64
  decode_indices : ∀ a i, cfg.decode.lookup a = .bankSelect i → i < cfg.numBankRegs
  query_indices : ∀ r a i, cfg.bankIndex.lookup r a = some i → i < cfg.numBankRegs

/-- The events in their order, each applied whole; a fault ends the run (00_scope.md R6, R7). -/
def runEvents : List Instr → State → Host.Outcome State Fault Refusal
  | [], s => .next s
  | i :: rest, s =>
    match exec i s with
    | .next s' => runEvents rest s'
    | .fault f => .fault f
    | .refused r => .refused r

/-- The block after `n` clean edges (41_irq_counter.md R120). -/
def afterEdges (cfg : Config) : Nat → Block → Block
  | 0, b => b
  | n + 1, b => (counterClock cfg (afterEdges cfg n b)).1

/-- Is clean edge number `n`, counted from 1, a trigger (R121)? -/
def edgeTriggers (cfg : Config) (b : Block) (n : Nat) : Bool :=
  (counterClock cfg (afterEdges cfg (n - 1) b)).2

/-- The accepted ones among rising transitions at the given times, picked greedily (40_a12_filter.md R106): the first
one with no accepted edge before it, and each later one at least `window` after the last accepted one. -/
def greedyEdges (window : Nat) : Option Time → List Time → List Time
  | _, [] => []
  | none, t :: rest => t :: greedyEdges window (some t) rest
  | some l, t :: rest =>
    if l.toNat + window ≤ t.toNat then t :: greedyEdges window (some t) rest
    else greedyEdges window (some l) rest

/-- The external agents of 00_scope.md R5. -/
inductive Agent where
  | cpuBus
  | irqLine
  | ppu
  | resetController
  | saveStateFramework
  | debuggerBridge
  | cartridgeLoader
deriving DecidableEq, Repr

/-- The agent that may issue an event (the table of R5). -/
def Instr.issuer : Instr → Agent
  | .bankSelect _ _ _ => .cpuBus
  | .irqReloadValue _ _ => .cpuBus
  | .irqLatch _ _ => .cpuBus
  | .irqEnable _ _ => .cpuBus
  | .irqAck _ _ => .cpuBus
  | .unmappedWrite _ _ => .cpuBus
  | .ppuAddr _ _ => .ppu
  | .irqPoll => .irqLine
  | .queryBank .prg _ => .cpuBus
  | .queryBank .chr _ => .ppu
  | .resetHard => .resetController
  | .resetSoft => .resetController
  | .serialize => .saveStateFramework
  | .deserialize _ => .saveStateFramework
  | .peekBank _ => .debuggerBridge
  | .peekCount => .debuggerBridge
  | .construct _ => .cartridgeLoader

end Sys2Proof
end

