-- ==== Sys2Proof/Certificates/Slice0/Obligations.lean ====
section
/-! DEFINITION. The statements for the provers. "Built" in a docstring means that the block exists. -/

open Sys2Proof Sys2Proof.Machine

/-! ### Encoding -/

/-- One word of each row of opcode_table.json, several for a row that holds several pages or indices, written out from 30_encoding.md R70, R71 and R76. The CONSTRUCT
word stands for `CONSTRUCT REF` by log 9. -/
def Obligations.TableWordsDecodeToTheirRows : Prop :=
  decodeTableWord 24 0x5000FF = some (.unmappedWrite 0x5000 0xFF) ∧
  decodeTableWord 24 0x80032A = some (.bankSelect 3 0x8003 0x2A) ∧
  decodeTableWord 24 0x8FFF77 = some (.bankSelect 7 0x8FFF 0x77) ∧
  decodeTableWord 24 0x900001 = some (.unmappedWrite 0x9000 0x01) ∧
  decodeTableWord 24 0xA00280 = some (.unmappedWrite 0xA002 0x80) ∧
  decodeTableWord 24 0xBFFFFF = some (.unmappedWrite 0xBFFF 0xFF) ∧
  decodeTableWord 24 0xC00100 = some (.unmappedWrite 0xC001 0x00) ∧
  decodeTableWord 24 0xD7F33C = some (.unmappedWrite 0xD7F3 0x3C) ∧
  decodeTableWord 24 0xEFFF01 = some (.unmappedWrite 0xEFFF 0x01) ∧
  decodeTableWord 24 0xF00007 = some (.irqReloadValue 0xF000 0x07) ∧
  decodeTableWord 24 0xF00D00 = some (.irqLatch 0xF00D 0x00) ∧
  decodeTableWord 24 0xF7F603 = some (.irqEnable 0xF7F6 0x03) ∧
  decodeTableWord 24 0xFFFF5A = some (.irqAck 0xFFFF 0x5A) ∧
  decodeTableWord 8 0x1 = some (.ppuAddr 0 0) ∧
  decodeTableWord 8 0x2 = some .irqPoll ∧
  decodeTableWord 8 0x3 = some (.queryBank .prg 0) ∧
  decodeTableWord 8 0x4 = some .resetHard ∧
  decodeTableWord 8 0x5 = some .resetSoft ∧
  decodeTableWord 8 0x6 = some .serialize ∧
  decodeTableWord 8 0x7 = some (.deserialize []) ∧
  decodeTableWord 8 0x8 = some (.peekBank 0) ∧
  decodeTableWord 8 0x9 = some .peekCount ∧
  decodeTableWord 8 0xA = some (.construct Config.ref) ∧
  decodeTableWord 8 0xB = none ∧
  decodeTableWord 8 0xF = none

/-- The round trip for every event and every `DECODE`: the record of a well-formed event spells that event. The record
form of CONSTRUCT and PEEK_BANK is the model's (log 4). -/
def Obligations.EncodedEventDecodesToItself : Prop :=
  ∀ (dec : AddrMap RegOp) (i : Instr), i.wf dec = true → decode dec (encode i) = .ok i

/-- The other direction: a record that spells an event is that event's record, and the event is well formed, so each
event has one record (30_encoding.md R78; log 4). -/
def Obligations.DecodedRecordIsTheEventsRecord : Prop :=
  ∀ (dec : AddrMap RegOp) (r : Record) (i : Instr), decode dec r = .ok i → encode i = r ∧ i.wf dec = true

/-- 30_encoding.md R70: a tag outside the table, and nothing else, makes a step fault with UnknownEvent, whatever the
payload and whether or not the block exists (log 10). -/
def Obligations.UnusedTagsSpellNoEvent : Prop :=
  ∀ (s : State) (r : Record) (rest : List Record), s.inbox = r :: rest →
    (step s = .fault .unknownEvent ↔ 0xB ≤ r.tag.toNat)

/-- 30_encoding.md R74, `decodeRef` in the rule's words, and that `DECODE` may be any function of the address: each is
some configuration's map (the tree form of a map is the model's choice, log 5). -/
def Obligations.DecodeRefFollowsThePageAndLowBits : Prop :=
  (∀ a : Addr16, Config.ref.decode.lookup a =
    if a.extractLsb' 12 4 = 0x8 then .bankSelect (a.extractLsb' 0 3).toNat
    else if a.extractLsb' 12 4 = 0xF then
      if a.extractLsb' 0 2 = 0b00 then .irqReloadValue
      else if a.extractLsb' 0 2 = 0b01 then .irqLatch
      else if a.extractLsb' 0 2 = 0b10 then .irqEnable
      else .irqAck
    else .unmapped) ∧
  (∀ (a : Addr16) (i : Nat), Config.ref.decode.lookup a = .bankSelect i → i < Config.ref.numBankRegs) ∧
  Config.ref.numBankRegs = 8 ∧
  (∀ f : Addr16 → RegOp, ∃ m : AddrMap RegOp, ∀ a, m.lookup a = f a)

/-- 43_bus_queries.md R182, `bankIndexRef` in the rule's words, and that `BANK_INDEX` may be any function (the
tree form of a map is the model's choice, log 5). -/
def Obligations.BankIndexRefFollowsTheWindows : Prop :=
  (∀ a : Addr16, Config.ref.bankIndex.lookup .prg a =
    if a.getLsbD 15 = true then some (a.extractLsb' 13 2).toNat else none) ∧
  (∀ a : Addr16, Config.ref.bankIndex.lookup .chr a =
    if a.getLsbD 13 = false then some (4 + (a.extractLsb' 11 2).toNat) else none) ∧
  (∀ f : Region → Addr16 → Option Nat, ∃ m : BankMap, ∀ r a, m.lookup r a = f r a)

/-- 30_encoding.md R77 on a block with `decodeRef`: every CPU write goes on; two addresses of the same page that agree in
the bits `decodeRef` reads are one operation; the data bits an operation ignores do not matter. -/
def Obligations.RefWritesIgnoreUnreadBits : Prop :=
  ∀ (s : State) (c : Chip) (rest : List Record) (a a' : Addr16) (d d' : Byte),
    s.chip = some c → c.cfg.decode = decodeRef →
    a.extractLsb' 12 4 = a'.extractLsb' 12 4 →
    (a.extractLsb' 12 4 = 0x8 → a.extractLsb' 0 3 = a'.extractLsb' 0 3 ∧ d.toNat % 2 ^ c.cfg.bankWidth = d'.toNat % 2 ^ c.cfg.bankWidth) →
    (a.extractLsb' 12 4 = 0xF → a.extractLsb' 0 2 = a'.extractLsb' 0 2) →
    (a.extractLsb' 12 4 = 0xF → a.extractLsb' 0 2 = 0b00 → d.toNat % 2 ^ c.cfg.counterWidth = d'.toNat % 2 ^ c.cfg.counterWidth) →
    (a.extractLsb' 12 4 = 0xF → a.extractLsb' 0 2 = 0b10 → d.getLsbD 0 = d'.getLsbD 0) →
    (∃ s', step { s with inbox := writeRecord a d :: rest } = .next s') ∧
    step { s with inbox := writeRecord a d :: rest } = step { s with inbox := writeRecord a' d' :: rest }

/-- 30_encoding.md R72: the record layout of PPU_ADDR, and that only a[12] and t are read. -/
def Obligations.PpuAddrReadsOnlyA12AndTime : Prop :=
  (∀ (dec : AddrMap RegOp) (a : Addr16) (t : Time),
    decode dec ⟨0x1, .word (a.toNat * 2 ^ 64 + t.toNat)⟩ = .ok (.ppuAddr a t)) ∧
  (∀ (s : State) (a a' : Addr16) (t : Time), a.getLsbD 12 = a'.getLsbD 12 →
    exec (.ppuAddr a t) s = exec (.ppuAddr a' t) s)

/-! ### The step -/

/-- 00_scope.md R6, with the inbox as the ordered sequence (log 2): when the oldest record spells `i`, the step is `exec`
of `i` on the machine with that record taken. -/
def Obligations.StepRunsTheDecodedEvent : Prop :=
  ∀ (s : State) (r : Record) (rest : List Record) (i : Instr), s.inbox = r :: rest →
    decode s.decodeMap r = .ok i → step s = exec i { s with inbox := rest }

/-- The model's own choices (log 2, log 4): no event waiting leaves the machine as it is, and a record whose payload has
not its tag's format is refused by name. -/
def Obligations.StepWithoutAnEvent : Prop :=
  (∀ s : State, s.inbox = [] → step s = .next s) ∧
  (∀ (s : State) (r : Record) (rest : List Record), s.inbox = r :: rest →
    decode s.decodeMap r = .error .malformedRecord → step s = .refused .malformedRecord)

/-- 00_scope.md R6: a step that goes on has taken exactly one record, and left every later one as it was (log 2). -/
def Obligations.StepTakesOneRecord : Prop :=
  ∀ s s' : State, step s = .next s' → s'.inbox = s.inbox.tail

/-- 42_register_writes.md R149: a CPU_WRITE decodes its address once through the block's own `DECODE`, runs exactly the
selected operation, has no response and never fails. -/
def Obligations.CpuWriteRunsTheSelectedOperation : Prop :=
  ∀ (s : State) (c : Chip) (rest : List Record) (a : Addr16) (d : Byte), s.chip = some c →
    s.inbox = writeRecord a d :: rest →
    step s =
      (match c.cfg.decode.lookup a with
      | .bankSelect i => exec (.bankSelect i a d) { s with inbox := rest }
      | .irqReloadValue => exec (.irqReloadValue a d) { s with inbox := rest }
      | .irqLatch => exec (.irqLatch a d) { s with inbox := rest }
      | .irqEnable => exec (.irqEnable a d) { s with inbox := rest }
      | .irqAck => exec (.irqAck a d) { s with inbox := rest }
      | .unmapped => exec (.unmappedWrite a d) { s with inbox := rest }) ∧
    ∃ b : Block, step s = .next { chip := some { cfg := c.cfg, blk := b }, inbox := rest, resp := .nothing }

/-! ### Register writes: result, frame and completion of each, for every built state and operand -/

/-- 42_register_writes.md R150, on every built state: bank `i`, if there is one, holds the data. That a write past the
last bank, which only an unreachable state can make, changes nothing and goes on is the model's choice (log 7). -/
def Obligations.BankSelectWritesOneBank : Prop :=
  (∀ (s : State) (c : Chip) (i : Nat) (a : Addr16) (d : Byte), s.chip = some c →
    exec (.bankSelect i a d) s = .next { s with
      chip := some { c with blk := { c.blk with
        banks := c.blk.banks.set i (BitVec.ofNat 8 (d.toNat % 2 ^ c.cfg.bankWidth)) } }
      resp := .nothing }) ∧
  (∀ (cfg : Config) (a : Addr16) (i : Nat), cfg.valid = true → cfg.decode.lookup a = .bankSelect i → i < cfg.numBankRegs) ∧
  (∀ (a : Addr16) (i : Nat), decodeRef.lookup a = .bankSelect i ↔ a &&& 0xF000 = 0x8000 ∧ i = (a &&& 0x0007).toNat)

/-- 42_register_writes.md R153 with the immediate load of R154; no flag is written, so the write is no trigger. -/
def Obligations.IrqReloadValueSetsReload : Prop :=
  (∀ (s : State) (c : Chip) (a : Addr16) (d : Byte), s.chip = some c → c.cfg.reloadWritePolicy = .deferred →
    exec (.irqReloadValue a d) s = .next { s with
      chip := some { c with blk := { c.blk with reload := BitVec.ofNat 8 (d.toNat % 2 ^ c.cfg.counterWidth) } }
      resp := .nothing }) ∧
  (∀ (s : State) (c : Chip) (a : Addr16) (d : Byte), s.chip = some c → c.cfg.reloadWritePolicy = .immediate →
    exec (.irqReloadValue a d) s = .next { s with
      chip := some { c with blk := { c.blk with
        reload := BitVec.ofNat 8 (d.toNat % 2 ^ c.cfg.counterWidth)
        count := BitVec.ofNat 8 (d.toNat % 2 ^ c.cfg.counterWidth) } }
      resp := .nothing }) ∧
  (∀ a : Addr16, decodeRef.lookup a = .irqReloadValue ↔ a &&& 0xF003 = 0xF000)

/-- 42_register_writes.md R156. -/
def Obligations.IrqLatchClearsCount : Prop :=
  (∀ (s : State) (c : Chip) (a : Addr16) (d : Byte), s.chip = some c →
    exec (.irqLatch a d) s = .next { s with
      chip := some { c with blk := { c.blk with count := 0 } }
      resp := .nothing }) ∧
  (∀ a : Addr16, decodeRef.lookup a = .irqLatch ↔ a &&& 0xF003 = 0xF001)

/-- 42_register_writes.md R158. -/
def Obligations.IrqEnableSetsEnabledFromBitZero : Prop :=
  (∀ (s : State) (c : Chip) (a : Addr16) (d : Byte), s.chip = some c →
    exec (.irqEnable a d) s = .next { s with
      chip := some { c with blk := { c.blk with enabled := d.getLsbD 0 } }
      resp := .nothing }) ∧
  (∀ a : Addr16, decodeRef.lookup a = .irqEnable ↔ a &&& 0xF003 = 0xF002)

/-- 42_register_writes.md R160. -/
def Obligations.IrqAckClearsPendingOnly : Prop :=
  (∀ (s : State) (c : Chip) (a : Addr16) (d : Byte), s.chip = some c →
    exec (.irqAck a d) s = .next { s with
      chip := some { c with blk := { c.blk with pending := false } }
      resp := .nothing }) ∧
  (∀ a : Addr16, decodeRef.lookup a = .irqAck ↔ a &&& 0xF003 = 0xF003)

/-- 42_register_writes.md R162. -/
def Obligations.UnmappedWriteChangesNothing : Prop :=
  (∀ (s : State) (c : Chip) (a : Addr16) (d : Byte), s.chip = some c →
    exec (.unmappedWrite a d) s = .next { s with resp := .nothing }) ∧
  (∀ a : Addr16, decodeRef.lookup a = .unmapped ↔
    a.getLsbD 15 = false ∨ (0x9 ≤ (a.extractLsb' 12 4).toNat ∧ (a.extractLsb' 12 4).toNat ≤ 0xE))

/-! ### The filter and the counter -/

/-- 40_a12_filter.md R101 to R104: what PPU_ADDR does on every built state, case by case. An accepted edge is the
counter's clock of 41_irq_counter.md R120 (`CounterClockReloadsDecrementsOrTriggers`). -/
def Obligations.PpuAddrFiltersRisingTransitions : Prop :=
  ∀ (s : State) (c : Chip) (a : Addr16) (t : Time), s.chip = some c →
    (¬(c.blk.a12Prev = false ∧ a.getLsbD 12 = true) →
      exec (.ppuAddr a t) s = .next { s with
        chip := some { c with blk := { c.blk with a12Prev := a.getLsbD 12 } }, resp := .nothing }) ∧
    (c.blk.a12Prev = false → a.getLsbD 12 = true → c.blk.lastEdge = none →
      exec (.ppuAddr a t) s = .next { s with
        chip := some { c with blk := (counterClock c.cfg { c.blk with a12Prev := true, lastEdge := some t }).1 }
        resp := .nothing }) ∧
    (∀ l : Time, c.blk.a12Prev = false → a.getLsbD 12 = true → c.blk.lastEdge = some l → t.toNat < l.toNat →
      exec (.ppuAddr a t) s = .fault .timeRegression) ∧
    (∀ l : Time, c.blk.a12Prev = false → a.getLsbD 12 = true → c.blk.lastEdge = some l → l.toNat ≤ t.toNat →
      (if c.cfg.filterStrict = true then c.cfg.filterWindow < t.toNat - l.toNat else c.cfg.filterWindow ≤ t.toNat - l.toNat) →
      exec (.ppuAddr a t) s = .next { s with
        chip := some { c with blk := (counterClock c.cfg { c.blk with a12Prev := true, lastEdge := some t }).1 }
        resp := .nothing }) ∧
    (∀ l : Time, c.blk.a12Prev = false → a.getLsbD 12 = true → c.blk.lastEdge = some l → l.toNat ≤ t.toNat →
      ¬(if c.cfg.filterStrict = true then c.cfg.filterWindow < t.toNat - l.toNat else c.cfg.filterWindow ≤ t.toNat - l.toNat) →
      exec (.ppuAddr a t) s = .next { s with
        chip := some { c with blk := { c.blk with a12Prev := true } }, resp := .nothing })

/-- 41_irq_counter.md R120 and R123: the new count, the trigger and what ZERO_POLICY does, for every block and
configuration; everything else of the block is unchanged, and the decrement does not wrap. -/
def Obligations.CounterClockReloadsDecrementsOrTriggers : Prop :=
  ∀ (cfg : Config) (b : Block) (next : Byte),
    (b.count = 0 → next = b.reload) → (b.count ≠ 0 → next.toNat + 1 = b.count.toNat) →
    (next ≠ 0 ∨ b.enabled = false → counterClock cfg b = ({ b with count := next }, false)) ∧
    (next = 0 → b.enabled = true → cfg.zeroPolicy = .reloadOnTrigger →
      counterClock cfg b = ({ b with count := b.reload, pending := true }, true)) ∧
    (next = 0 → b.enabled = true → cfg.zeroPolicy = .holdAtBoundary →
      counterClock cfg b = ({ b with count := 0, pending := true }, true))

/-- 10_state.md R26 and 41_irq_counter.md R121: over all events, `pending` rises only on an accepted rising transition
that triggers or by a load, and falls only by IRQ_ACK, a reset or a load. So only the PPU and the save-state framework
can raise the IRQ line (00_scope.md R5). -/
def Obligations.PendingRisesOnlyOnATriggerOrLoad : Prop :=
  ∀ (i : Instr) (s s' : State) (c c' : Chip), s.chip = some c → exec i s = .next s' → s'.chip = some c' →
    (c.blk.pending = false → c'.blk.pending = true →
      (∃ a t, i = .ppuAddr a t ∧ rising c.blk a = true ∧ filterAccept c.cfg c.blk.lastEdge t = .ok true ∧
        (counterClock c.cfg c.blk).2 = true) ∨ (∃ l, i = .deserialize l)) ∧
    (c.blk.pending = true → c'.blk.pending = false →
      (∃ a d, i = .irqAck a d) ∨ i = .resetHard ∨ i = .resetSoft ∨ ∃ l, i = .deserialize l) ∧
    (s.irqLine = false → s'.irqLine = true → i.issuer = .ppu ∨ i.issuer = .saveStateFramework)

/-- 10_state.md R23 to R25 and R27 to R29: over all events on a built state, which event may change each other field. -/
def Obligations.EachFieldHasOnlyItsWriters : Prop :=
  ∀ (i : Instr) (s s' : State) (c c' : Chip), s.chip = some c → exec i s = .next s' → s'.chip = some c' →
    (c'.blk.count ≠ c.blk.count →
      (∃ a t, i = .ppuAddr a t ∧ rising c.blk a = true ∧ filterAccept c.cfg c.blk.lastEdge t = .ok true ∧
        c'.blk.lastEdge = some t) ∨ (∃ a d, i = .irqLatch a d) ∨
        (∃ a d, i = .irqReloadValue a d ∧ c.cfg.reloadWritePolicy = .immediate) ∨ i = .resetHard ∨ ∃ l, i = .deserialize l) ∧
    (c'.blk.reload ≠ c.blk.reload → (∃ a d, i = .irqReloadValue a d) ∨ i = .resetHard ∨ ∃ l, i = .deserialize l) ∧
    (c'.blk.enabled ≠ c.blk.enabled →
      (∃ a d, i = .irqEnable a d) ∨ i = .resetHard ∨ (i = .resetSoft ∧ c.cfg.softResetClearsEnable = true) ∨
        ∃ l, i = .deserialize l) ∧
    (∀ k, c'.blk.banks[k]? ≠ c.blk.banks[k]? → (∃ a d, i = .bankSelect k a d) ∨ i = .resetHard ∨ ∃ l, i = .deserialize l) ∧
    (c'.blk.lastEdge ≠ c.blk.lastEdge →
      (∃ a t, i = .ppuAddr a t ∧ rising c.blk a = true ∧ filterAccept c.cfg c.blk.lastEdge t = .ok true ∧
        c'.blk.lastEdge = some t) ∨ i = .resetHard ∨ i = .resetSoft ∨ ∃ l, i = .deserialize l) ∧
    (c'.blk.a12Prev ≠ c.blk.a12Prev →
      (∃ a t, i = .ppuAddr a t) ∨ i = .resetHard ∨ i = .resetSoft ∨ ∃ l, i = .deserialize l)

/-- 10_state.md R33 (b), the spec's own inference: no event but a load moves `lastEdge` from one time to another that
is nearer than the filter window. -/
def Obligations.AcceptedEdgesAreAWindowApart : Prop :=
  ∀ (i : Instr) (s s' : State) (c c' : Chip) (l t : Time), s.chip = some c → exec i s = .next s' → s'.chip = some c' →
    (∀ bytes, i ≠ .deserialize bytes) → c.blk.lastEdge = some l → c'.blk.lastEdge = some t → t ≠ l →
    (c.cfg.filterStrict = false → l.toNat + c.cfg.filterWindow ≤ t.toNat) ∧
    (c.cfg.filterStrict = true → l.toNat + c.cfg.filterWindow < t.toNat)

/-- 40_a12_filter.md R106, the spec's own inference from R102 and R103: the rising transitions of a run since a reset at
times that do not go down are accepted greedily, and the counter is clocked once for each accepted one. -/
def Obligations.FilterAcceptsGreedily : Prop :=
  ∀ (s : State) (c : Chip) (high low : Addr16) (times : List Time), s.chip = some c → c.cfg.filterStrict = false →
    c.blk.lastEdge = none → c.blk.a12Prev = false → high.getLsbD 12 = true → low.getLsbD 12 = false →
    times.Pairwise (fun x y => x.toNat ≤ y.toNat) →
    (∃ s', runEvents (times.flatMap fun t => [.ppuAddr high t, .ppuAddr low t]) s = .next s' ∧
      s'.chip = some { c with blk := { afterEdges c.cfg (greedyEdges c.cfg.filterWindow none times).length c.blk with
        lastEdge := (greedyEdges c.cfg.filterWindow none times).getLast?
        a12Prev := false } }) ∧
    (greedyEdges c.cfg.filterWindow none times).Pairwise (fun x y => x.toNat + c.cfg.filterWindow ≤ y.toNat)

/-- 41_irq_counter.md R125 (c), (f) and R126, the spec's own inferences: from count 0 with reload R the first trigger is
clean edge R + 1; from count c ≥ 1 it is clean edge c. -/
def Obligations.FirstTriggerEdge : Prop :=
  (∀ (cfg : Config) (b : Block) (n : Nat), b.count = 0 → b.enabled = true → 1 ≤ n → n ≤ b.reload.toNat + 1 →
    (edgeTriggers cfg b n = true ↔ n = b.reload.toNat + 1)) ∧
  (∀ (cfg : Config) (b : Block) (n : Nat), b.enabled = true → 1 ≤ n → n ≤ b.count.toNat →
    (edgeTriggers cfg b n = true ↔ n = b.count.toNat))

/-- 41_irq_counter.md R125 (c), (d) and (e), the spec's own inferences: every trigger of an enabled counter from count 0.
With reload R ≥ 1 they come on edge R + 1 and then every R edges under ReloadOnTrigger; every R + 1 edges under
HoldAtBoundary; on every edge when R = 0. -/
def Obligations.TriggersComeAtThePolicysPeriod : Prop :=
  ∀ (cfg : Config) (b : Block) (n : Nat), b.count = 0 → b.enabled = true → 1 ≤ n →
    (cfg.zeroPolicy = .reloadOnTrigger → 1 ≤ b.reload.toNat →
      (edgeTriggers cfg b n = true ↔ b.reload.toNat < n ∧ (n - 1) % b.reload.toNat = 0)) ∧
    (cfg.zeroPolicy = .holdAtBoundary → (edgeTriggers cfg b n = true ↔ n % (b.reload.toNat + 1) = 0)) ∧
    (b.reload = 0 → edgeTriggers cfg b n = true)

/-- 41_irq_counter.md R124 and 70_reset_and_hazards.md R260 under Deferred: a reload write changes neither the running
count nor the edge of the next trigger; the count after that edge is the new value under ReloadOnTrigger. -/
def Obligations.DeferredReloadWriteKeepsTheSchedule : Prop :=
  ∀ (s : State) (c : Chip) (a : Addr16) (d : Byte), s.chip = some c → c.cfg.reloadWritePolicy = .deferred →
    ∃ b : Block,
      exec (.irqReloadValue a d) s = .next { s with chip := some { c with blk := b }, resp := .nothing } ∧
      (∀ n, n < c.blk.count.toNat → (afterEdges c.cfg n b).count = (afterEdges c.cfg n c.blk).count) ∧
      (∀ n, 1 ≤ n → n ≤ c.blk.count.toNat → edgeTriggers c.cfg b n = edgeTriggers c.cfg c.blk n) ∧
      (c.blk.count ≠ 0 → c.blk.enabled = true → c.cfg.zeroPolicy = .reloadOnTrigger →
        (afterEdges c.cfg c.blk.count.toNat b).count = BitVec.ofNat 8 (d.toNat % 2 ^ c.cfg.counterWidth))

/-- 42_register_writes.md R161 and 70_reset_and_hazards.md R261: an acknowledge after the triggering PPU_ADDR clears it,
one before it does not. -/
def Obligations.AcknowledgeAndTriggerKeepTheirOrder : Prop :=
  ∀ (s : State) (c : Chip) (a aw : Addr16) (t : Time) (d : Byte), s.chip = some c → rising c.blk a = true →
    filterAccept c.cfg c.blk.lastEdge t = .ok true → (counterClock c.cfg c.blk).2 = true →
    (∃ s', runEvents [.ppuAddr a t, .irqAck aw d] s = .next s' ∧ s'.irqLine = false) ∧
    (∃ s', runEvents [.irqAck aw d, .ppuAddr a t] s = .next s' ∧ s'.irqLine = true)

/-! ### Bus queries and debugger accessors -/

/-- 43_bus_queries.md R180: the poll answers `pending` and changes nothing of the block. That `pending` is the level of
the IRQ line is R181, the spec's own inference. -/
def Obligations.IrqPollAnswersPending : Prop :=
  (∀ (s : State) (c : Chip), s.chip = some c →
    exec .irqPoll s = .next { s with resp := .bool c.blk.pending } ∧ s.irqLine = c.blk.pending) ∧
  (∀ dec : AddrMap RegOp, decode dec ⟨0x2, .empty⟩ = .ok .irqPoll)

/-- 43_bus_queries.md R183, with the record of 30_encoding.md R73. On a legal state a bank index always names a
register, so the answer is `none` only outside every window. -/
def Obligations.QueryBankAnswersTheSelectedBank : Prop :=
  (∀ (s : State) (c : Chip) (r : Region) (a : Addr16), s.chip = some c → c.cfg.bankIndex.lookup r a = none →
    exec (.queryBank r a) s = .next { s with resp := .bank none }) ∧
  (∀ (s : State) (c : Chip) (r : Region) (a : Addr16) (i : Nat), s.chip = some c → s.Inv →
    c.cfg.bankIndex.lookup r a = some i →
    ∃ h : i < c.blk.banks.length, exec (.queryBank r a) s = .next { s with resp := .bank (some c.blk.banks[i]) }) ∧
  (∀ (dec : AddrMap RegOp) (a : Addr16), decode dec ⟨0x3, .word a.toNat⟩ = .ok (.queryBank .prg a) ∧
    decode dec ⟨0x3, .word (2 ^ 16 + a.toNat)⟩ = .ok (.queryBank .chr a))

/-- 43_bus_queries.md R185. The record form of the index, in the last clause, is the model's (log 4). -/
def Obligations.PeekBankAnswersTheRegister : Prop :=
  (∀ (s : State) (c : Chip) (i : Nat), s.chip = some c → s.Inv → i < c.cfg.numBankRegs →
    ∃ h : i < c.blk.banks.length, exec (.peekBank i) s = .next { s with resp := .bank (some c.blk.banks[i]) }) ∧
  (∀ (s : State) (c : Chip) (i : Nat), s.chip = some c → c.cfg.numBankRegs ≤ i →
    exec (.peekBank i) s = .next { s with resp := .bank none }) ∧
  (∀ (dec : AddrMap RegOp) (i : Nat), decode dec ⟨0x8, .index i⟩ = .ok (.peekBank i))

/-- 43_bus_queries.md R186. -/
def Obligations.PeekCountAnswersCount : Prop :=
  (∀ (s : State) (c : Chip), s.chip = some c → exec .peekCount s = .next { s with resp := .count c.blk.count }) ∧
  (∀ dec : AddrMap RegOp, decode dec ⟨0x9, .empty⟩ = .ok .peekCount)

/-- 43_bus_queries.md R187: the answer of every event but SERIALIZE depends on the configuration, `count`, `pending` and
the banks alone: two built states that agree in those answer alike, whatever `reload`, `enabled`, `lastEdge` and
`a12Prev` are. -/
def Obligations.OnlySerializeShowsTheHiddenFields : Prop :=
  ∀ (i : Instr) (s₁ s₂ t₁ t₂ : State) (c₁ c₂ : Chip), i ≠ .serialize → s₁.chip = some c₁ → s₂.chip = some c₂ →
    c₁.cfg = c₂.cfg → c₁.blk.count = c₂.blk.count → c₁.blk.pending = c₂.blk.pending → c₁.blk.banks = c₂.blk.banks →
    exec i s₁ = .next t₁ → exec i s₂ = .next t₂ → t₁.resp = t₂.resp

/-- 20_memory.md R60: a bank-select write is what the very next query of that register answers. -/
def Obligations.BankSelectIsSeenByTheNextQuery : Prop :=
  ∀ (s : State) (c : Chip) (i : Nat) (a q : Addr16) (d : Byte) (r : Region), s.chip = some c → s.Inv →
    c.cfg.decode.lookup a = .bankSelect i → c.cfg.bankIndex.lookup r q = some i →
    ∃ s', runEvents [.bankSelect i a d, .queryBank r q] s = .next s' ∧
      s'.resp = .bank (some (BitVec.ofNat 8 (d.toNat % 2 ^ c.cfg.bankWidth)))

/-! ### Save and load -/

/-- 44_save_state.md R201 and R202: the record of a legal state, byte by byte; nothing but the response changes. -/
def Obligations.SerializeWritesTheRecord : Prop :=
  (∀ (s : State) (c : Chip), s.chip = some c → s.Inv →
    ∃ l : List Byte, exec .serialize s = .next { s with resp := .bytes l } ∧
      l.length = 13 + c.cfg.numBankRegs ∧ l[0]? = some 0x01 ∧ l[1]? = some c.blk.count ∧ l[2]? = some c.blk.reload ∧
      (∃ f : Byte, l[3]? = some f ∧ f.getLsbD 0 = c.blk.enabled ∧ f.getLsbD 1 = c.blk.pending ∧
        f.getLsbD 2 = c.blk.a12Prev ∧ f.getLsbD 3 = c.blk.lastEdge.isSome ∧ f.toNat < 16) ∧
      (∀ t k, c.blk.lastEdge = some t → k < 8 → l[4 + k]? = some (t.extractLsb' (8 * k) 8)) ∧
      (∀ k, c.blk.lastEdge = none → k < 8 → l[4 + k]? = some 0) ∧
      (∃ n : Byte, l[12]? = some n ∧ n.toNat = c.cfg.numBankRegs) ∧
      (∀ i, i < c.cfg.numBankRegs → l[13 + i]? = c.blk.banks[i]?)) ∧
  (∀ dec : AddrMap RegOp, decode dec ⟨0x6, .empty⟩ = .ok .serialize)

/-- 44_save_state.md R203's last sentence, the spec's own inference: every record SERIALIZE produces is valid. -/
def Obligations.SerializedRecordsAreValid : Prop :=
  ∀ (s s' : State) (c : Chip) (l : List Byte), s.chip = some c → s.Inv → exec .serialize s = .next s' →
    s'.resp = .bytes l → SaveRecordOk c.cfg l

/-- 44_save_state.md R205 with the checks of R203 (`SaveRecordOk` is R203 in its words): a valid record replaces every
field, any other reports LoadFailure and leaves the state as it was. The record form of the list, in the last clause, is the
model's (log 4). -/
def Obligations.DeserializeLoadsValidRecordsOnly : Prop :=
  (∀ (s : State) (c : Chip) (l : List Byte), s.chip = some c → SaveRecordOk c.cfg l →
    ∃ b : Block, exec (.deserialize l) s = .next { s with chip := some { c with blk := b }, resp := .nothing } ∧
      b.count = l.getD 1 0 ∧ b.reload = l.getD 2 0 ∧ b.enabled = (l.getD 3 0).getLsbD 0 ∧
      b.pending = (l.getD 3 0).getLsbD 1 ∧ b.a12Prev = (l.getD 3 0).getLsbD 2 ∧
      ((l.getD 3 0).getLsbD 3 = false → b.lastEdge = none) ∧
      ((l.getD 3 0).getLsbD 3 = true → ∃ t : Time, b.lastEdge = some t ∧ ∀ k, k < 8 → t.extractLsb' (8 * k) 8 = l.getD (4 + k) 0) ∧
      b.banks = l.drop 13) ∧
  (∀ (s : State) (c : Chip) (l : List Byte), s.chip = some c → ¬SaveRecordOk c.cfg l →
    exec (.deserialize l) s = .next { s with resp := .err .loadFailure }) ∧
  (∀ (dec : AddrMap RegOp) (l : List Byte), decode dec ⟨0x7, .bytes l⟩ = .ok (.deserialize l))

/-- 44_save_state.md R206, the spec's own inference: the record of a legal state, loaded into any block of the same
configuration, gives exactly that state back. -/
def Obligations.SaveThenLoadRestoresTheBlock : Prop :=
  ∀ (s t : State) (c : Chip) (b : Block), s.chip = some c → s.Inv → t.chip = some { cfg := c.cfg, blk := b } →
    ∃ l : List Byte, exec .serialize s = .next { s with resp := .bytes l } ∧
      exec (.deserialize l) t = .next { t with chip := some c, resp := .nothing }

/-! ### Construction and reset -/

/-- 00_scope.md R9 and 70_reset_and_hazards.md R250: CONSTRUCT faults on an existing block, creates the power-on block
from exactly the acceptable configurations, and reports ConfigError on any other. The record that carries the
configuration, in the last clause, is the model's (log 4). -/
def Obligations.ConstructAcceptsExactlyR9 : Prop :=
  (∀ (s : State) (cfg : Config), s.chip = none → AcceptableConfig cfg →
    exec (.construct cfg) s = .next { s with
      chip := some { cfg := cfg, blk := {
        count := 0
        reload := 0
        enabled := false
        pending := false
        banks := List.replicate cfg.numBankRegs 0
        lastEdge := none
        a12Prev := cfg.a12PrevReset } }
      resp := .nothing }) ∧
  (∀ (s : State) (cfg : Config), s.chip = none → ¬AcceptableConfig cfg →
    exec (.construct cfg) s = .next { s with resp := .err .configError }) ∧
  (∀ (s : State) (c : Chip) (cfg : Config), s.chip = some c → exec (.construct cfg) s = .fault .alreadyConstructed) ∧
  (∀ (dec : AddrMap RegOp) (cfg : Config), decode dec ⟨0xA, .config cfg⟩ = .ok (.construct cfg))

/-- 70_reset_and_hazards.md R252: the state after does not depend on the state before. -/
def Obligations.ResetHardGivesThePowerOnState : Prop :=
  (∀ (s : State) (c : Chip), s.chip = some c →
    exec .resetHard s = .next { s with
      chip := some { c with blk := {
        count := 0
        reload := 0
        enabled := false
        pending := false
        banks := List.replicate c.cfg.numBankRegs 0
        lastEdge := none
        a12Prev := c.cfg.a12PrevReset } }
      resp := .nothing }) ∧
  (∀ dec : AddrMap RegOp, decode dec ⟨0x4, .empty⟩ = .ok .resetHard)

/-- 70_reset_and_hazards.md R253: count, reload and the banks are kept; `enabled` goes only under
SOFT_RESET_CLEARS_ENABLE. -/
def Obligations.ResetSoftKeepsTheProgrammedState : Prop :=
  (∀ (s : State) (c : Chip), s.chip = some c →
    exec .resetSoft s = .next { s with
      chip := some { c with blk := { c.blk with
        enabled := if c.cfg.softResetClearsEnable = true then false else c.blk.enabled
        pending := false
        lastEdge := none
        a12Prev := c.cfg.a12PrevReset } }
      resp := .nothing }) ∧
  (∀ dec : AddrMap RegOp, decode dec ⟨0x5, .empty⟩ = .ok .resetSoft)

/-- 41_irq_counter.md R128. -/
def Obligations.CounterResetHardAndSoft : Prop :=
  ∀ (cfg : Config) (b : Block),
    counterReset cfg true b = { b with count := 0, reload := 0, enabled := false, pending := false } ∧
    counterReset cfg false b =
      { b with pending := false, enabled := if cfg.softResetClearsEnable = true then false else b.enabled }

/-- The model's State.reset (log 1): it is what RESET_HARD leaves of any block in REF, and what `CONSTRUCT REF` creates
(10_state.md R34). -/
def Obligations.ResetStateIsTheHardResetOfRef : Prop :=
  (∀ (s : State) (b : Block), s.chip = some { cfg := Config.ref, blk := b } →
    exec .resetHard s = .next { State.reset with inbox := s.inbox }) ∧
  exec (.construct Config.ref) State.unbuilt = .next State.reset

/-- 70_reset_and_hazards.md R256, the spec's own inference: after a soft reset, software that first disables and then
acknowledges sees no IRQ, however the PPU drives the address lines. -/
def Obligations.GuardedSoftResetRaisesNoIrq : Prop :=
  ∀ (s s' : State) (c : Chip) (a₁ a₂ : Addr16) (d₁ d₂ : Byte) (lines : List (Addr16 × Time)), s.chip = some c →
    d₁.getLsbD 0 = false →
    runEvents (.resetSoft :: .irqEnable a₁ d₁ :: .irqAck a₂ d₂ :: lines.map fun x => .ppuAddr x.1 x.2) s = .next s' →
    s'.irqLine = false

/-! ### The whole machine -/

/-- 60_exceptions.md R225 and 70_reset_and_hazards.md R251: when an event faults, and with which fault; an event is
never refused. -/
def Obligations.EventsFaultExactlyOutsideTheContract : Prop :=
  (∀ (i : Instr) (s : State) (f : Fault), exec i s = .fault f ↔
    (s.chip = none ∧ f = .notConstructed ∧ ∀ cfg, i ≠ .construct cfg) ∨
    (∃ c cfg, s.chip = some c ∧ i = .construct cfg ∧ f = .alreadyConstructed) ∨
    (∃ c a t l, s.chip = some c ∧ i = .ppuAddr a t ∧ c.blk.a12Prev = false ∧ a.getLsbD 12 = true ∧
      c.blk.lastEdge = some l ∧ t.toNat < l.toNat ∧ f = .timeRegression)) ∧
  (∀ (i : Instr) (s : State) (r : Refusal), exec i s ≠ .refused r)

/-- 20_memory.md R52, the spec's own inference: every event but PPU_ADDR (and CONSTRUCT, which can succeed only once) is
idempotent, its answer included. R52's table calls PPU_ADDR not idempotent; the statement says nothing of it (log 15). -/
def Obligations.EventsButPpuAddrAreIdempotent : Prop :=
  ∀ (i : Instr) (s : State), (∀ a t, i ≠ .ppuAddr a t) → (∀ cfg, i ≠ .construct cfg) →
    runEvents [i, i] s = runEvents [i] s

/-- 00_scope.md R8: no step changes the configuration of a block that exists; and the REF values of the scalar parameters.
That no step unmakes the block is the model's choice (log 14): 70_reset_and_hazards.md R251 has cartridge unload end the
block and defines no event for it, and 30_encoding.md R70 lists none. -/
def Obligations.ConfigurationIsFixedWhileTheBlockExists : Prop :=
  (∀ (s s' : State) (c : Chip), s.chip = some c → step s = .next s' → ∃ b : Block, s'.chip = some { cfg := c.cfg, blk := b }) ∧
  Config.ref.filterWindow = 16 ∧ Config.ref.filterStrict = false ∧ Config.ref.a12PrevReset = false ∧
  Config.ref.counterWidth = 8 ∧ Config.ref.zeroPolicy = .reloadOnTrigger ∧ Config.ref.reloadWritePolicy = .deferred ∧
  Config.ref.numBankRegs = 8 ∧ Config.ref.bankWidth = 8 ∧ Config.ref.softResetClearsEnable = false

/-- 10_state.md R33 (a), the spec's own inference, with R22's number of banks and R9's configuration: every step keeps a
legal state legal. -/
def Obligations.StepKeepsTheStateLegal : Prop :=
  ∀ s s' : State, s.Inv → step s = .next s' → s'.Inv

/-- The state after reset (log 1) and the state before CONSTRUCT are legal. -/
def Obligations.InitialStatesAreLegal : Prop :=
  State.reset.Inv ∧ State.unbuilt.Inv
end

