-- ==== Sys2Proof/Laws/Configuration.lean ====
section
/-! SUPPORT. What the address maps can return: `AddrMap.outputs` lists exactly the answers of `AddrMap.lookup`. -/

namespace Sys2Proof

/-- The address has the bits that `known` says. -/
def agreesWith (a : Addr16) (known : List (Fin 16 × Bool)) : Prop :=
  ∀ bit v, known.lookup bit = some v → a.getLsbD bit = v

theorem agreesWith_nil (a : Addr16) : agreesWith a [] := by
  intro bit v h
  simp at h

theorem agreesWith_cons (a : Addr16) (bit : Fin 16) (v : Bool) (known : List (Fin 16 × Bool))
    (hk : agreesWith a known) (hv : a.getLsbD bit = v) : agreesWith a ((bit, v) :: known) := by
  intro bit' v' h
  by_cases hb : bit' = bit
  · subst hb
    simp at h
    simp_all
  · have : (bit' == bit) = false := by simpa using hb
    simp [List.lookup_cons, this] at h
    exact hk _ _ h

theorem agreesWith_of_cons (a : Addr16) (bit : Fin 16) (v : Bool) (known : List (Fin 16 × Bool))
    (hn : known.lookup bit = none) (h : agreesWith a ((bit, v) :: known)) :
    agreesWith a known ∧ a.getLsbD bit = v := by
  constructor
  · intro bit' v' hl
    apply h
    by_cases hb : bit' = bit
    · subst hb
      simp [hn] at hl
    · have : (bit' == bit) = false := by simpa using hb
      simpa [List.lookup_cons, this] using hl
  · apply h
    simp

/-- An answer the map gives at an address that agrees with `known` is listed. -/
theorem AddrMap.lookup_mem_outputsFrom {α : Type} (m : AddrMap α) (a : Addr16) (known : List (Fin 16 × Bool))
    (h : agreesWith a known) : m.lookup a ∈ m.outputsFrom known := by
  induction m generalizing known with
  | leaf v => simp [AddrMap.lookup, AddrMap.outputsFrom]
  | test bit zero one ihz iho =>
    simp only [AddrMap.lookup, AddrMap.outputsFrom]
    cases hl : known.lookup bit with
    | some v =>
      rw [h bit v hl]
      cases v
      · exact ihz known h
      · exact iho known h
    | none =>
      cases hb : a.getLsbD bit
      · exact List.mem_append_left _ (ihz _ (agreesWith_cons a bit false known h hb))
      · exact List.mem_append_right _ (iho _ (agreesWith_cons a bit true known h hb))

/-- The address whose bits are as `known` says, and 0 elsewhere. -/
def addressOf (known : List (Fin 16 × Bool)) : Addr16 :=
  BitVec.ofFnLE fun bit => (known.lookup bit).getD false

theorem addressOf_agrees (known : List (Fin 16 × Bool)) : agreesWith (addressOf known) known := by
  intro bit v h
  simp [addressOf, h]

/-- A listed answer is given at some address that agrees with `known`. -/
theorem AddrMap.mem_outputsFrom {α : Type} (m : AddrMap α) (v : α) (known : List (Fin 16 × Bool))
    (h : v ∈ m.outputsFrom known) : ∃ a, agreesWith a known ∧ m.lookup a = v := by
  induction m generalizing known with
  | leaf w =>
    refine ⟨addressOf known, addressOf_agrees known, ?_⟩
    simpa [AddrMap.lookup, AddrMap.outputsFrom, eq_comm] using h
  | test bit zero one ihz iho =>
    simp only [AddrMap.outputsFrom] at h
    simp only [AddrMap.lookup]
    cases hl : known.lookup bit with
    | some w =>
      cases w
      · simp only [hl] at h
        obtain ⟨a, ha, hv⟩ := ihz known h
        exact ⟨a, ha, by rw [ha bit false hl]; exact hv⟩
      · simp only [hl] at h
        obtain ⟨a, ha, hv⟩ := iho known h
        exact ⟨a, ha, by rw [ha bit true hl]; exact hv⟩
    | none =>
      simp only [hl, List.mem_append] at h
      rcases h with h | h
      · obtain ⟨a, ha, hv⟩ := ihz _ h
        obtain ⟨hk, hb⟩ := agreesWith_of_cons a bit false known hl ha
        exact ⟨a, hk, by rw [hb]; exact hv⟩
      · obtain ⟨a, ha, hv⟩ := iho _ h
        obtain ⟨hk, hb⟩ := agreesWith_of_cons a bit true known hl ha
        exact ⟨a, hk, by rw [hb]; exact hv⟩

/-- `outputs` lists exactly the answers the map can return. -/
theorem AddrMap.mem_outputs_iff {α : Type} (m : AddrMap α) (v : α) :
    v ∈ m.outputs ↔ ∃ a, m.lookup a = v := by
  constructor
  · intro h
    obtain ⟨a, _, hv⟩ := m.mem_outputsFrom v [] h
    exact ⟨a, hv⟩
  · rintro ⟨a, rfl⟩
    exact m.lookup_mem_outputsFrom a [] (agreesWith_nil a)

/-- `indexBelow` in the words of 00_scope.md R9. -/
theorem indexBelow_iff (n : Nat) (o : Option Nat) : indexBelow n o = true ↔ ∀ i, o = some i → i < n := by
  cases o <;> simp [indexBelow]

theorem RegOp.index?_eq_some (op : RegOp) (i : Nat) : op.index? = some i ↔ op = .bankSelect i := by
  cases op <;> simp [RegOp.index?]

theorem Config.ref_valid : Config.ref.valid = true := by decide

end Sys2Proof
end

