-- ==== Sys2Proof/Laws/Decode.lean ====
section
/-! SUPPORT. Fields of a record put together and taken apart (30_encoding.md R71 to R73), and the tags of R70. -/

namespace Sys2Proof

/-- The high field of a record with an `m`-bit low field. -/
theorem bitField_high {n m : Nat} (x : BitVec n) (y : BitVec m) :
    bitField (x.toNat * 2 ^ m + y.toNat) m n = x := by
  have hy := y.isLt
  apply BitVec.eq_of_toNat_eq
  simp only [bitField, BitVec.toNat_ofNat]
  rw [Nat.mul_comm, Nat.mul_add_div (Nat.two_pow_pos m), Nat.div_eq_of_lt hy]
  exact Nat.mod_eq_of_lt x.isLt

/-- The low field of a record. -/
theorem bitField_low {n m : Nat} (x : BitVec n) (y : BitVec m) :
    bitField (x.toNat * 2 ^ m + y.toNat) 0 m = y := by
  apply BitVec.eq_of_toNat_eq
  simp [bitField, Nat.mul_add_mod_self_right]

/-- A record of an `n`-bit and an `m`-bit field is below 2^(n+m). -/
theorem fields_lt {n m : Nat} (x : BitVec n) (y : BitVec m) : x.toNat * 2 ^ m + y.toNat < 2 ^ (n + m) := by
  have hx := x.isLt
  have hy := y.isLt
  calc x.toNat * 2 ^ m + y.toNat < (x.toNat + 1) * 2 ^ m := by rw [Nat.add_mul]; omega
    _ ≤ 2 ^ n * 2 ^ m := Nat.mul_le_mul_right _ hx
    _ = 2 ^ (n + m) := (Nat.pow_add 2 n m).symm

/-- The CPU_WRITE record decodes to the operation its address selects (42_register_writes.md R149). -/
theorem decode_writeRecord (dec : AddrMap RegOp) (a : Addr16) (d : Byte) :
    decode dec (writeRecord a d) = .ok (writeInstr (dec.lookup a) a d) := by
  have h : a.toNat * 2 ^ 8 + d.toNat < 2 ^ 24 := fields_lt a d
  have h1 : bitField (a.toNat * 2 ^ 8 + d.toNat) 8 16 = a := bitField_high a d
  have h2 : bitField (a.toNat * 2 ^ 8 + d.toNat) 0 8 = d := bitField_low a d
  show decodeCpuWrite dec (a.toNat * 2 ^ 8 + d.toNat) = _
  rw [decodeCpuWrite, if_pos h, h1, h2]

end Sys2Proof
end

