-- ==== Sys2Proof/Laws/State.lean ====
section
/-! SUPPORT. One lemma per field per update, so that no later proof unfolds a record update. -/

namespace Sys2Proof.Machine

section flags
variable (b : Block) (e : Bool)

@[simp] theorem raisePending_count : (raisePending b).count = b.count := rfl
@[simp] theorem raisePending_reload : (raisePending b).reload = b.reload := rfl
@[simp] theorem raisePending_enabled : (raisePending b).enabled = b.enabled := rfl
@[simp] theorem raisePending_pending : (raisePending b).pending = true := rfl
@[simp] theorem raisePending_banks : (raisePending b).banks = b.banks := rfl
@[simp] theorem raisePending_lastEdge : (raisePending b).lastEdge = b.lastEdge := rfl
@[simp] theorem raisePending_a12Prev : (raisePending b).a12Prev = b.a12Prev := rfl

@[simp] theorem clearPending_count : (clearPending b).count = b.count := rfl
@[simp] theorem clearPending_reload : (clearPending b).reload = b.reload := rfl
@[simp] theorem clearPending_enabled : (clearPending b).enabled = b.enabled := rfl
@[simp] theorem clearPending_pending : (clearPending b).pending = false := rfl
@[simp] theorem clearPending_banks : (clearPending b).banks = b.banks := rfl
@[simp] theorem clearPending_lastEdge : (clearPending b).lastEdge = b.lastEdge := rfl
@[simp] theorem clearPending_a12Prev : (clearPending b).a12Prev = b.a12Prev := rfl

@[simp] theorem setEnabled_count : (setEnabled b e).count = b.count := rfl
@[simp] theorem setEnabled_reload : (setEnabled b e).reload = b.reload := rfl
@[simp] theorem setEnabled_enabled : (setEnabled b e).enabled = e := rfl
@[simp] theorem setEnabled_pending : (setEnabled b e).pending = b.pending := rfl
@[simp] theorem setEnabled_banks : (setEnabled b e).banks = b.banks := rfl
@[simp] theorem setEnabled_lastEdge : (setEnabled b e).lastEdge = b.lastEdge := rfl
@[simp] theorem setEnabled_a12Prev : (setEnabled b e).a12Prev = b.a12Prev := rfl

end flags

section banks
variable (cfg : Config) (b : Block) (i : Nat) (v : Byte)

@[simp] theorem writeBank_count : (writeBank b i v).count = b.count := rfl
@[simp] theorem writeBank_reload : (writeBank b i v).reload = b.reload := rfl
@[simp] theorem writeBank_enabled : (writeBank b i v).enabled = b.enabled := rfl
@[simp] theorem writeBank_pending : (writeBank b i v).pending = b.pending := rfl
@[simp] theorem writeBank_banks : (writeBank b i v).banks = b.banks.set i v := rfl
@[simp] theorem writeBank_lastEdge : (writeBank b i v).lastEdge = b.lastEdge := rfl
@[simp] theorem writeBank_a12Prev : (writeBank b i v).a12Prev = b.a12Prev := rfl

@[simp] theorem banksReset_count : (banksReset cfg b).count = b.count := rfl
@[simp] theorem banksReset_reload : (banksReset cfg b).reload = b.reload := rfl
@[simp] theorem banksReset_enabled : (banksReset cfg b).enabled = b.enabled := rfl
@[simp] theorem banksReset_pending : (banksReset cfg b).pending = b.pending := rfl
@[simp] theorem banksReset_banks : (banksReset cfg b).banks = List.replicate cfg.numBankRegs 0 := rfl
@[simp] theorem banksReset_lastEdge : (banksReset cfg b).lastEdge = b.lastEdge := rfl
@[simp] theorem banksReset_a12Prev : (banksReset cfg b).a12Prev = b.a12Prev := rfl

@[simp] theorem filterReset_count : (filterReset cfg b).count = b.count := rfl
@[simp] theorem filterReset_reload : (filterReset cfg b).reload = b.reload := rfl
@[simp] theorem filterReset_enabled : (filterReset cfg b).enabled = b.enabled := rfl
@[simp] theorem filterReset_pending : (filterReset cfg b).pending = b.pending := rfl
@[simp] theorem filterReset_banks : (filterReset cfg b).banks = b.banks := rfl
@[simp] theorem filterReset_lastEdge : (filterReset cfg b).lastEdge = none := rfl
@[simp] theorem filterReset_a12Prev : (filterReset cfg b).a12Prev = cfg.a12PrevReset := rfl

end banks

section machine
variable (s : State) (r : Record)

@[simp] theorem deliverNext_chip : (deliverNext s r).chip = s.chip := rfl
@[simp] theorem deliverNext_inbox : (deliverNext s r).inbox = r :: s.inbox := rfl
@[simp] theorem deliverNext_resp : (deliverNext s r).resp = s.resp := rfl

end machine

end Sys2Proof.Machine
end

