-- ==== Sys2Proof/Laws/Ops.lean ====
section
/-! SUPPORT. What each shared operation can do, said once. -/

namespace Sys2Proof.Machine

section outcomes
variable {s s' : State} {c : Chip}

/-- An event on an existing block. -/
theorem onChip_built (act : Chip → StepOutcome) (h : s.chip = some c) : onChip s act = act c := by
  simp [onChip, h]

/-- An event with no block (70_reset_and_hazards.md R251). -/
theorem onChip_unbuilt (act : Chip → StepOutcome) (h : s.chip = none) : onChip s act = .fault .notConstructed := by
  simp [onChip, h]

/-- If an event on the block goes on, the block exists and the event's own part went on. -/
theorem onChip_next {act : Chip → StepOutcome} (h : onChip s act = .next s') :
    ∃ c, s.chip = some c ∧ act c = .next s' := by
  unfold onChip at h
  split at h
  · cases h
  · exact ⟨_, ‹_›, h⟩

/-- `update` always goes on: block replaced, configuration and inbox kept, nothing answered. -/
theorem update_next {b : Block} (h : update s c b = .next s') :
    s'.chip = some ⟨c.cfg, b⟩ ∧ s'.inbox = s.inbox ∧ s'.resp = .nothing := by
  cases h
  exact ⟨rfl, rfl, rfl⟩

/-- `answer` always goes on: only the response is new. -/
theorem answer_next {r : Response} (h : answer s r = .next s') :
    s'.chip = s.chip ∧ s'.inbox = s.inbox ∧ s'.resp = r := by
  cases h
  exact ⟨rfl, rfl, rfl⟩

/-- `report` always goes on: only the response is new. -/
theorem report_next {e : ErrCode} (h : report s e = .next s') :
    s'.chip = s.chip ∧ s'.inbox = s.inbox ∧ s'.resp = .err e := by
  cases h
  exact ⟨rfl, rfl, rfl⟩

end outcomes

section truncation

theorem trunc_toNat (n : Nat) (v : Byte) : (trunc n v).toNat = v.toNat % 2 ^ n := by
  have h1 : v.toNat % 2 ^ n ≤ v.toNat := Nat.mod_le _ _
  have h2 := v.isLt
  simp only [trunc, BitVec.toNat_ofNat]
  exact Nat.mod_eq_of_lt (by omega)

theorem trunc_lt (n : Nat) (v : Byte) : (trunc n v).toNat < 2 ^ n := by
  rw [trunc_toNat]
  exact Nat.mod_lt _ (Nat.two_pow_pos n)

theorem trunc_of_lt (n : Nat) (v : Byte) (h : v.toNat < 2 ^ n) : trunc n v = v := by
  apply BitVec.eq_of_toNat_eq
  rw [trunc_toNat, Nat.mod_eq_of_lt h]

end truncation

section bankAccess
variable (b : Block) (i j : Nat) (v : Byte)

/-- A bank register reads as it was last written. -/
theorem readBank_writeBank_self (h : i < b.banks.length) : readBank (writeBank b i v) i = some v := by
  simp [readBank, h]

/-- Writing one bank register leaves every other alone. -/
theorem readBank_writeBank_other (h : i ≠ j) : readBank (writeBank b i v) j = readBank b j := by
  simp [readBank, h]

end bankAccess

section counter
variable (cfg : Config) (b : Block)

/-- The two ways a clean edge ends (41_irq_counter.md R120). -/
theorem counterClock_cases :
    (nextCount b = 0 ∧ b.enabled = true ∧
      counterClock cfg b = ({ b with count := countAfterTrigger cfg b, pending := true }, true)) ∨
    ((nextCount b ≠ 0 ∨ b.enabled = false) ∧
      counterClock cfg b = ({ b with count := nextCount b }, false)) := by
  cases he : b.enabled <;> by_cases hn : nextCount b = 0#8 <;>
    simp [counterClock, triggers, raisePending, hn, he]

@[simp] theorem counterClock_reload : (counterClock cfg b).1.reload = b.reload := by
  rcases counterClock_cases cfg b with ⟨-, -, h⟩ | ⟨-, h⟩ <;> simp [h]

@[simp] theorem counterClock_enabled : (counterClock cfg b).1.enabled = b.enabled := by
  rcases counterClock_cases cfg b with ⟨-, -, h⟩ | ⟨-, h⟩ <;> simp [h]

@[simp] theorem counterClock_banks : (counterClock cfg b).1.banks = b.banks := by
  rcases counterClock_cases cfg b with ⟨-, -, h⟩ | ⟨-, h⟩ <;> simp [h]

@[simp] theorem counterClock_lastEdge : (counterClock cfg b).1.lastEdge = b.lastEdge := by
  rcases counterClock_cases cfg b with ⟨-, -, h⟩ | ⟨-, h⟩ <;> simp [h]

@[simp] theorem counterClock_a12Prev : (counterClock cfg b).1.a12Prev = b.a12Prev := by
  rcases counterClock_cases cfg b with ⟨-, -, h⟩ | ⟨-, h⟩ <;> simp [h]

end counter

section filter
variable (cfg : Config) (b : Block) (a : Addr16) (t : Time)

/-- When the filter accepts (40_a12_filter.md R102): there is no last edge, or the time is not below it and far enough
from it. -/
theorem filterAccept_ok_true_iff (last : Option Time) :
    filterAccept cfg last t = .ok true ↔
      ∀ l, last = some l → l.toNat ≤ t.toNat ∧ spacedEnough cfg (t.toNat - l.toNat) = true := by
  cases last with
  | none => simp [filterAccept]
  | some l =>
    by_cases hlt : t.toNat < l.toNat
    · simp [filterAccept, hlt]
    · simp [filterAccept, hlt, Nat.not_lt.1 hlt]

/-- The four ways PPU_ADDR ends (40_a12_filter.md R104). -/
theorem observeAddress_cases :
    (rising b a = false ∧ observeAddress cfg b a t = .ok { b with a12Prev := a12 a }) ∨
    (rising b a = true ∧ ∃ l, b.lastEdge = some l ∧ t.toNat < l.toNat ∧
      observeAddress cfg b a t = .error .timeRegression) ∨
    (rising b a = true ∧ ∃ l, b.lastEdge = some l ∧ l.toNat ≤ t.toNat ∧
      spacedEnough cfg (t.toNat - l.toNat) = false ∧
      observeAddress cfg b a t = .ok { b with a12Prev := a12 a }) ∨
    (rising b a = true ∧
      (∀ l, b.lastEdge = some l → l.toNat ≤ t.toNat ∧ spacedEnough cfg (t.toNat - l.toNat) = true) ∧
      observeAddress cfg b a t = .ok (commitEdge cfg { b with a12Prev := a12 a } t)) := by
  cases hr : rising b a
  · simp [observeAddress, hr]
  · cases hl : b.lastEdge with
    | none => simp [observeAddress, hr, filterAccept, hl]
    | some l =>
      by_cases hlt : t.toNat < l.toNat
      · simp [observeAddress, hr, filterAccept, hl, hlt]
      · cases hs : spacedEnough cfg (t.toNat - l.toNat) <;>
          simp [observeAddress, hr, filterAccept, hl, hlt, hs] <;> omega

/-- The same PPU_ADDR at once again changes nothing more (40_a12_filter.md R101 and R104; log 15): the level it finds is
the level it brings. -/
theorem observeAddress_again {b' : Block} (h : observeAddress cfg b a t = .ok b') :
    observeAddress cfg b' a t = .ok b' := by
  have hp : b'.a12Prev = a12 a := by
    rcases observeAddress_cases cfg b a t with ⟨-, h'⟩ | ⟨-, _, -, -, h'⟩ | ⟨-, _, -, -, -, h'⟩ | ⟨-, -, h'⟩ <;>
      rw [h] at h' <;> cases h' <;> simp [commitEdge]
  have hr : rising b' a = false := by simp [rising, hp]
  simp [observeAddress, hr, ← hp]

/-- PPU_ADDR that goes on replaced the block by the one observed. -/
theorem execPpuAddr_next {s s' : State} (h : execPpuAddr a t s = .next s') :
    ∃ c b, s.chip = some c ∧ observeAddress c.cfg c.blk a t = .ok b ∧
      s' = { s with chip := some { c with blk := b }, resp := .nothing } := by
  obtain ⟨c, hc, h⟩ := onChip_next h
  split at h
  · cases h
  · rename_i b hb
    cases h
    exact ⟨c, b, hc, hb, rfl⟩

end filter

section reset
variable (cfg : Config) (b : Block)

/-- RESET_HARD's block depends on the configuration alone (70_reset_and_hazards.md R252). -/
theorem hardReset_eq : hardReset cfg b =
    { count := 0, reload := 0, enabled := false, pending := false, banks := List.replicate cfg.numBankRegs 0,
      lastEdge := none, a12Prev := cfg.a12PrevReset } := by
  simp [hardReset, counterReset, banksReset, filterReset, clearPending, setEnabled]

/-- RESET_SOFT's block (R253). -/
theorem softReset_eq : softReset cfg b =
    { b with
      enabled := b.enabled && !cfg.softResetClearsEnable
      pending := false
      lastEdge := none
      a12Prev := cfg.a12PrevReset } := by
  cases h : cfg.softResetClearsEnable <;>
    simp [softReset, counterReset, filterReset, clearPending, setEnabled, h]

end reset

section step
variable {s : State} {r : Record} {rest : List Record}

/-- Taking the oldest record. -/
theorem takeRecord_cons (h : s.inbox = r :: rest) : takeRecord s = some (r, { s with inbox := rest }) := by
  simp [takeRecord, h]

theorem takeRecord_nil (h : s.inbox = []) : takeRecord s = none := by
  simp [takeRecord, h]

@[simp] theorem decodeMap_inbox : State.decodeMap { s with inbox := rest } = s.decodeMap := rfl

end step

end Sys2Proof.Machine
end

