-- ==== Sys2Proof/Laws/PerInstr.lean ====
section
/-! SUPPORT. The per-instruction family RecordShape: the record of every event has a tag of 30_encoding.md R70 and a
payload of that tag's format, whatever the block's `DECODE` is. -/

namespace Sys2Proof.Laws.RecordShape

/-- The record of `i` spells some event for every block. -/
def Statement (i : Instr) : Prop :=
  ∀ dec : AddrMap RegOp, ∃ j, decode dec (encode i) = .ok j

theorem bankSelect (k : Nat) (a : Addr16) (d : Byte) : Statement (.bankSelect k a d) :=
  fun dec => ⟨_, decode_writeRecord dec a d⟩

theorem irqReloadValue (a : Addr16) (d : Byte) : Statement (.irqReloadValue a d) :=
  fun dec => ⟨_, decode_writeRecord dec a d⟩

theorem irqLatch (a : Addr16) (d : Byte) : Statement (.irqLatch a d) :=
  fun dec => ⟨_, decode_writeRecord dec a d⟩

theorem irqEnable (a : Addr16) (d : Byte) : Statement (.irqEnable a d) :=
  fun dec => ⟨_, decode_writeRecord dec a d⟩

theorem irqAck (a : Addr16) (d : Byte) : Statement (.irqAck a d) :=
  fun dec => ⟨_, decode_writeRecord dec a d⟩

theorem unmappedWrite (a : Addr16) (d : Byte) : Statement (.unmappedWrite a d) :=
  fun dec => ⟨_, decode_writeRecord dec a d⟩

theorem ppuAddr (a : Addr16) (t : Time) : Statement (.ppuAddr a t) := by
  intro dec
  have h : a.toNat * 2 ^ 64 + t.toNat < 2 ^ 80 := fields_lt a t
  exact ⟨_, if_pos h⟩

theorem irqPoll : Statement .irqPoll := fun _ => ⟨_, rfl⟩

theorem queryBank (r : Region) (a : Addr16) : Statement (.queryBank r a) := by
  intro dec
  have ha := a.isLt
  have h : r.bit * 2 ^ 16 + a.toNat < 2 ^ 17 := by cases r <;> simp [Region.bit] <;> omega
  exact ⟨_, if_pos h⟩

theorem resetHard : Statement .resetHard := fun _ => ⟨_, rfl⟩

theorem resetSoft : Statement .resetSoft := fun _ => ⟨_, rfl⟩

theorem serialize : Statement .serialize := fun _ => ⟨_, rfl⟩

theorem deserialize (l : List Byte) : Statement (.deserialize l) := fun _ => ⟨_, rfl⟩

theorem peekBank (k : Nat) : Statement (.peekBank k) := fun _ => ⟨_, rfl⟩

theorem peekCount : Statement .peekCount := fun _ => ⟨_, rfl⟩

theorem construct (cfg : Config) : Statement (.construct cfg) := fun _ => ⟨_, rfl⟩

end Sys2Proof.Laws.RecordShape
end

