-- ==== Sys2Proof/Laws/SaveState.lean ====
section
/-! SUPPORT. The save record read back byte by byte (44_save_state.md R201). -/

namespace Sys2Proof.Machine

variable (cfg : Config) (b : Block)

theorem saveRecord_length : (saveRecord cfg b).length = 13 + b.banks.length := by
  simp [saveRecord, timeBytes]
  omega

theorem saveRecord_drop : (saveRecord cfg b).drop 13 = b.banks := rfl

theorem saveRecord_times : ((saveRecord cfg b).drop 4).take 8 = timeBytes (savedTime b) := rfl

@[simp] theorem recordByte_saveRecord_0 : recordByte (saveRecord cfg b) 0 = 0x01 := rfl
@[simp] theorem recordByte_saveRecord_1 : recordByte (saveRecord cfg b) 1 = b.count := rfl
@[simp] theorem recordByte_saveRecord_2 : recordByte (saveRecord cfg b) 2 = b.reload := rfl
@[simp] theorem recordByte_saveRecord_3 : recordByte (saveRecord cfg b) 3 = flagsByte b := rfl
@[simp] theorem recordByte_saveRecord_12 :
    recordByte (saveRecord cfg b) 12 = BitVec.ofNat 8 cfg.numBankRegs := rfl

/-- The flags byte read bit by bit (R201). -/
theorem flagsByte_bits :
    (flagsByte b).getLsbD 0 = b.enabled ∧ (flagsByte b).getLsbD 1 = b.pending ∧ (flagsByte b).getLsbD 2 = b.a12Prev ∧
      (flagsByte b).getLsbD 3 = b.lastEdge.isSome ∧ (flagsByte b).extractLsb' 4 4 = 0 := by
  unfold flagsByte
  cases b.enabled <;> cases b.pending <;> cases b.a12Prev <;> cases b.lastEdge.isSome <;> decide

/-- The eight time bytes put together again. -/
theorem timeBytes_join (t : Time) :
    timeByte t 7 ++ timeByte t 6 ++ timeByte t 5 ++ timeByte t 4
      ++ timeByte t 3 ++ timeByte t 2 ++ timeByte t 1 ++ timeByte t 0 = t := by
  apply BitVec.eq_of_getLsbD_eq
  intro i hi
  simp only [timeByte, BitVec.getLsbD_append, BitVec.getLsbD_extractLsb']
  interval_cases i <;> simp

theorem recordTime_saveRecord : recordTime (saveRecord cfg b) = savedTime b :=
  timeBytes_join (savedTime b)

end Sys2Proof.Machine
end

