-- ==== Sys2Proof/Tests/Slice0.lean ====
section
/-! SUPPORT. The model's own tests, with expected values from the spec's rules and from the vectors of
95_test_vectors.md (named at each test), and the witnesses that the statements' hypotheses can be met. -/

namespace Sys2Proof.Tests

open Sys2Proof.Machine

/-- A built machine with no event waiting. -/
def machineOf (cfg : Config) (b : Block) : State :=
  { chip := some { cfg := cfg, blk := b }, inbox := [], resp := .nothing }

/-- The state of the example of 44_save_state.md R202. -/
def exampleBlock : Block where
  count := 3
  reload := 7
  enabled := true
  pending := false
  banks := [0, 1, 2, 3, 4, 5, 6, 7]
  lastEdge := some 0x1234
  a12Prev := true

/-- The same with the A12 line low, as before a rising transition. -/
def lowBlock : Block :=
  { exampleBlock with a12Prev := false }

/-- The machine of the R202 example in REF. -/
def example0 : State := machineOf Config.ref exampleBlock

def blockAfter (o : StepOutcome) : Option Block :=
  (nextState? o).bind fun s => s.chip.map Chip.blk

def responseAfter (o : StepOutcome) : Option Response :=
  (nextState? o).map State.resp

/-! ### WellFormed refuses an ill-formed term of each check -/

theorem test_wf_bankSelect_wrong_index : (Instr.bankSelect 2 0x8003 0x2A).wf decodeRef = false := by decide
theorem test_wf_irqReloadValue_wrong_address : (Instr.irqReloadValue 0xF001 0).wf decodeRef = false := by decide
theorem test_wf_irqLatch_wrong_address : (Instr.irqLatch 0xF000 0).wf decodeRef = false := by decide
theorem test_wf_irqEnable_wrong_address : (Instr.irqEnable 0x8002 0).wf decodeRef = false := by decide
theorem test_wf_irqAck_wrong_address : (Instr.irqAck 0x5003 0).wf decodeRef = false := by decide
theorem test_wf_unmappedWrite_mapped_address : (Instr.unmappedWrite 0xFFFF 0).wf decodeRef = false := by decide

/-! ### Decoding: one written-out record for each event (30_encoding.md R70 to R73, R76; programs P1 and P3) -/

theorem test_decode_bankSelect : decode decodeRef ⟨0x0, .word 0x80021E⟩ = .ok (.bankSelect 2 0x8002 0x1E) := by rfl
theorem test_decode_irqReloadValue : decode decodeRef ⟨0x0, .word 0xF00003⟩ = .ok (.irqReloadValue 0xF000 0x03) := by rfl
theorem test_decode_irqLatch : decode decodeRef ⟨0x0, .word 0xF00100⟩ = .ok (.irqLatch 0xF001 0x00) := by rfl
theorem test_decode_irqEnable : decode decodeRef ⟨0x0, .word 0xF00201⟩ = .ok (.irqEnable 0xF002 0x01) := by rfl
theorem test_decode_irqAck : decode decodeRef ⟨0x0, .word 0xF00300⟩ = .ok (.irqAck 0xF003 0x00) := by rfl
theorem test_decode_unmappedWrite : decode decodeRef ⟨0x0, .word 0x5000FF⟩ = .ok (.unmappedWrite 0x5000 0xFF) := by rfl
theorem test_decode_ppuAddr : decode decodeRef ⟨0x1, .word 0x10000000000000000104⟩ = .ok (.ppuAddr 0x1000 260) := by rfl
theorem test_decode_irqPoll : decode decodeRef ⟨0x2, .empty⟩ = .ok .irqPoll := by rfl
theorem test_decode_queryBank_prg : decode decodeRef ⟨0x3, .word 0x0FFFC⟩ = .ok (.queryBank .prg 0xFFFC) := by rfl
theorem test_decode_queryBank_chr : decode decodeRef ⟨0x3, .word 0x11800⟩ = .ok (.queryBank .chr 0x1800) := by rfl
theorem test_decode_resetHard : decode decodeRef ⟨0x4, .empty⟩ = .ok .resetHard := by rfl
theorem test_decode_resetSoft : decode decodeRef ⟨0x5, .empty⟩ = .ok .resetSoft := by rfl
theorem test_decode_serialize : decode decodeRef ⟨0x6, .empty⟩ = .ok .serialize := by rfl
theorem test_decode_deserialize : decode decodeRef ⟨0x7, .bytes [0x01, 0x03]⟩ = .ok (.deserialize [0x01, 0x03]) := by rfl
theorem test_decode_peekBank : decode decodeRef ⟨0x8, .index 8⟩ = .ok (.peekBank 8) := by rfl
theorem test_decode_peekCount : decode decodeRef ⟨0x9, .empty⟩ = .ok .peekCount := by rfl
theorem test_decode_construct : decode decodeRef ⟨0xA, .config Config.ref⟩ = .ok (.construct Config.ref) := by rfl
theorem test_decode_unknown_tag : decode decodeRef ⟨0xB, .empty⟩ = .error .unknownEvent := by rfl
theorem test_decode_too_wide : decode decodeRef ⟨0x0, .word 0x1000000⟩ = .error .malformedRecord := by rfl
theorem test_decode_wrong_payload : decode decodeRef ⟨0x2, .word 0⟩ = .error .malformedRecord := by rfl

/-! ### The events, at most two each -/

/-- V-REG-1. -/
theorem test_bankSelect_writes_bank_3 :
    (blockAfter (exec (.bankSelect 3 0x8003 0x2A) example0)).map Block.banks = some [0, 1, 2, 0x2A, 4, 5, 6, 7] := by
  decide

/-- V-SAV-6: the data byte is cut to BANK_WIDTH = 4. -/
theorem test_bankSelect_truncates :
    (blockAfter (exec (.bankSelect 0 0x8000 0x3C) (machineOf { Config.ref with bankWidth := 4 } exampleBlock))).map Block.banks
      = some [0x0C, 1, 2, 3, 4, 5, 6, 7] := by decide

/-- The example of 42_register_writes.md R153: the running count is kept. -/
theorem test_irqReloadValue_deferred :
    (blockAfter (exec (.irqReloadValue 0xF000 9) (machineOf Config.ref { exampleBlock with count := 4 }))).map
      (fun b => (b.count, b.reload)) = some (4, 9) := by decide

/-- V-CNT-6: loaded at once, and a zero triggers nothing. -/
theorem test_irqReloadValue_immediate :
    (blockAfter (exec (.irqReloadValue 0xF000 0) (machineOf { Config.ref with reloadWritePolicy := .immediate } exampleBlock))).map
      (fun b => (b.count, b.reload, b.pending)) = some (0, 0, false) := by decide

/-- The example of R156. -/
theorem test_irqLatch_clears_count :
    (blockAfter (exec (.irqLatch 0xF001 0xFF) (machineOf Config.ref { exampleBlock with count := 5, reload := 2 }))).map
      (fun b => (b.count, b.reload, b.pending)) = some (0, 2, false) := by decide

/-- V-REG-3: only d[0] counts. -/
theorem test_irqEnable_FE_disables :
    (blockAfter (exec (.irqEnable 0xF002 0xFE) (machineOf Config.ref { exampleBlock with pending := true }))).map
      (fun b => (b.enabled, b.pending)) = some (false, true) := by decide

theorem test_irqEnable_01_enables :
    (blockAfter (exec (.irqEnable 0xF002 0x01) (machineOf Config.ref { exampleBlock with enabled := false }))).map
      Block.enabled = some true := by decide

/-- V-REG-4. -/
theorem test_irqAck_clears_pending_only :
    blockAfter (exec (.irqAck 0xF003 0x5A) (machineOf Config.ref { exampleBlock with pending := true }))
      = some exampleBlock := by decide

/-- V-SRC-3. -/
theorem test_unmappedWrite_changes_nothing :
    blockAfter (exec (.unmappedWrite 0x5000 0xFF) example0) = some exampleBlock := by decide

/-- V-SRC-1, the eighth edge: a trigger, the count reloaded. -/
theorem test_ppuAddr_trigger :
    (blockAfter (exec (.ppuAddr 0x1000 0x1244) (machineOf Config.ref { lowBlock with count := 1 }))).map
      (fun b => (b.count, b.pending, b.lastEdge, b.a12Prev)) = some (7, true, some 0x1244, true) := by decide

/-- V-FLT-2: 15 cycles after the last accepted edge is too soon. -/
theorem test_ppuAddr_rejected_one_below_the_window :
    blockAfter (exec (.ppuAddr 0x1FFF 0x1243) (machineOf Config.ref lowBlock)) = some exampleBlock := by decide

/-- R180. -/
theorem test_irqPoll :
    responseAfter (exec .irqPoll (machineOf Config.ref { exampleBlock with pending := true })) = some (.bool true) := by decide

/-- V-QRY-1. -/
theorem test_queryBank_prg_DFFF : responseAfter (exec (.queryBank .prg 0xDFFF) example0) = some (.bank (some 2)) := by decide

/-- V-QRY-2: bits 15:14 of a PPU address are ignored. -/
theorem test_queryBank_chr_4800 : responseAfter (exec (.queryBank .chr 0x4800) example0) = some (.bank (some 5)) := by decide

/-- 10_state.md R34. -/
theorem test_resetHard_gives_reset_state :
    blockAfter (exec .resetHard example0) = (State.reset.chip.map Chip.blk) := by decide

/-- The example of 70_reset_and_hazards.md R253. -/
theorem test_resetSoft_keeps_the_programmed_state :
    blockAfter (exec .resetSoft (machineOf Config.ref { exampleBlock with count := 2, pending := true }))
      = some { exampleBlock with count := 2, pending := false, lastEdge := none, a12Prev := false } := by decide

/-- V-RST-5. -/
theorem test_resetSoft_clears_enable_when_configured :
    (blockAfter (exec .resetSoft (machineOf { Config.ref with softResetClearsEnable := true } exampleBlock))).map
      Block.enabled = some false := by decide

/-- The example of 44_save_state.md R202. -/
theorem test_serialize_example :
    responseAfter (exec .serialize example0) = some (.bytes
      [0x01, 0x03, 0x07, 0x0D, 0x34, 0x12, 0, 0, 0, 0, 0, 0, 0x08, 0, 1, 2, 3, 4, 5, 6, 7]) := by decide

/-- V-SAV-2: the time bytes, lowest first. -/
theorem test_serialize_time_bytes :
    responseAfter (exec .serialize (machineOf Config.ref { exampleBlock with lastEdge := some 0x0123456789ABCDEF })) = some (.bytes
      [0x01, 0x03, 0x07, 0x0D, 0xEF, 0xCD, 0xAB, 0x89, 0x67, 0x45, 0x23, 0x01, 0x08, 0, 1, 2, 3, 4, 5, 6, 7]) := by decide

/-- V-SAV-0. -/
theorem test_deserialize_example :
    blockAfter (exec (.deserialize
      [0x01, 0x03, 0x07, 0x0D, 0x34, 0x12, 0, 0, 0, 0, 0, 0, 0x08, 0, 1, 2, 3, 4, 5, 6, 7]) State.reset)
      = some exampleBlock := by decide

/-- V-SAV-4: a flag bit above bit 3 makes the record malformed; nothing changes. -/
theorem test_deserialize_malformed :
    nextState? (exec (.deserialize
      [0x01, 0, 0, 0x10, 0, 0, 0, 0, 0, 0, 0, 0, 0x08, 0, 0, 0, 0, 0, 0, 0, 0]) example0)
      = some { example0 with resp := .err .loadFailure } := by decide

/-- The example of 43_bus_queries.md R185. -/
theorem test_peekBank_7 : responseAfter (exec (.peekBank 7) State.reset) = some (.bank (some 0)) := by decide
theorem test_peekBank_8 : responseAfter (exec (.peekBank 8) State.reset) = some (.bank none) := by decide

theorem test_peekCount : responseAfter (exec .peekCount example0) = some (.count 3) := by decide

/-- The example of R250. -/
theorem test_construct_ref : nextState? (exec (.construct Config.ref) State.unbuilt) = some State.reset := by decide

/-- V-ERR-3. -/
theorem test_construct_invalid :
    nextState? (exec (.construct { Config.ref with counterWidth := 9 }) State.unbuilt)
      = some { State.unbuilt with resp := .err .configError } := by decide

/-! ### The step: table words, faults, idling -/

/-- V-ERR-1. -/
theorem test_step_poll_before_construct :
    fault? (step (State.unbuilt.withFetchWord 8 0x2)) = some .notConstructed := by decide

/-- V-ERR-2. -/
theorem test_step_construct_twice :
    fault? (step (State.reset.withFetchWord 8 0xA)) = some .alreadyConstructed := by decide

/-- V-ERR-4. -/
theorem test_step_unknown_tag : fault? (step (State.reset.withFetchWord 8 0xF)) = some .unknownEvent := by decide

/-- V-FLT-6. -/
theorem test_time_regression :
    fault? (exec (.ppuAddr 0x1000 0x1233) (machineOf Config.ref lowBlock)) = some .timeRegression := by decide

/-- P1 row 10 as a table word. -/
theorem test_step_table_word :
    (blockAfter (step (State.reset.withFetchWord 24 0xF00003))).map Block.reload = some 3 := by decide

/-- The pseudo-event `BANK 2, #$1E` of R79 is the record of P1 row 4. -/
theorem test_pseudo_bank : pseudoBank 2 0x1E = [⟨0x0, .word 0x80021E⟩] := by decide

/-! ### Witnesses: concrete states and operands that meet the hypotheses of the statements, clause by clause -/

theorem example0_legal : example0.Inv := by
  intro c hc
  cases hc
  exact ⟨by decide, by decide, by decide, by decide, by decide⟩

theorem low_legal : (machineOf Config.ref lowBlock).Inv := by
  intro c hc
  cases hc
  exact ⟨by decide, by decide, by decide, by decide, by decide⟩

theorem witness_EncodedEventDecodesToItself : (Instr.bankSelect 7 0x8FFF 0xFF).wf decodeRef = true := by decide

theorem witness_DecodedRecordIsTheEventsRecord :
    decode decodeRef ⟨0x3, .word 0x1FFFF⟩ = .ok (.queryBank .chr 0xFFFF) := by rfl

theorem witness_UnusedTagsSpellNoEvent :
    fault? (step { example0 with inbox := [⟨0xB, .empty⟩] }) = some .unknownEvent ∧
    fault? (step { example0 with inbox := [⟨0xA, .config Config.ref⟩] }) = some .alreadyConstructed := by decide

theorem witness_DecodeRefFollowsThePageAndLowBits : Config.ref.decode.lookup 0x8FFF = .bankSelect 7 := by decide

theorem witness_RefWritesIgnoreUnreadBits :
    Config.ref.decode = decodeRef ∧
    ((0x8000 : Addr16).extractLsb' 12 4 = 0x8 ∧ (0x8000 : Addr16).extractLsb' 12 4 = (0x8FF8 : Addr16).extractLsb' 12 4 ∧
      (0x8000 : Addr16).extractLsb' 0 3 = (0x8FF8 : Addr16).extractLsb' 0 3 ∧ (5 : Byte).toNat % 2 ^ 8 = (5 : Byte).toNat % 2 ^ 8) ∧
    ((0xF002 : Addr16).extractLsb' 12 4 = 0xF ∧ (0xF002 : Addr16).extractLsb' 0 2 = (0xFFFE : Addr16).extractLsb' 0 2 ∧
      (0xFE : Byte).getLsbD 0 = (0x00 : Byte).getLsbD 0) := by decide

theorem witness_PpuAddrReadsOnlyA12AndTime : (0x1FFF : Addr16).getLsbD 12 = (0xF000 : Addr16).getLsbD 12 := by decide

theorem witness_StepRunsTheDecodedEvent :
    ({ example0 with inbox := [⟨0x0, .word 0xFFFF00⟩] } : State).inbox = [⟨0x0, .word 0xFFFF00⟩] ∧
    decode ({ example0 with inbox := [⟨0x0, .word 0xFFFF00⟩] } : State).decodeMap ⟨0x0, .word 0xFFFF00⟩
      = .ok (.irqAck 0xFFFF 0) := by
  constructor <;> rfl

theorem witness_StepWithoutAnEvent :
    example0.inbox = [] ∧
    decode ({ example0 with inbox := [⟨0x3, .word 0x20000⟩] } : State).decodeMap ⟨0x3, .word 0x20000⟩ = .error .malformedRecord :=
  ⟨rfl, rfl⟩

theorem witness_StepTakesOneRecord :
    nextState? (step { example0 with inbox := [⟨0x2, .empty⟩, ⟨0x9, .empty⟩] })
      = some { example0 with inbox := [⟨0x9, .empty⟩], resp := .bool false } := by decide

theorem witness_CpuWriteRunsTheSelectedOperation :
    ∃ (s : State) (c : Chip), s.chip = some c ∧ s.inbox = [writeRecord 0xFFFF 0xFF] :=
  ⟨{ example0 with inbox := [writeRecord 0xFFFF 0xFF] }, _, rfl, rfl⟩

theorem witness_BankSelectWritesOneBank :
    (∃ c, example0.chip = some c) ∧ Config.ref.valid = true ∧ Config.ref.decode.lookup 0x8007 = .bankSelect 7 :=
  ⟨⟨_, rfl⟩, by decide, by decide⟩

theorem witness_IrqReloadValueSetsReload :
    (∃ c, example0.chip = some c ∧ c.cfg.reloadWritePolicy = .deferred) ∧
    (∃ c, (machineOf { Config.ref with reloadWritePolicy := .immediate } exampleBlock).chip = some c ∧
      c.cfg.reloadWritePolicy = .immediate) :=
  ⟨⟨_, rfl, rfl⟩, ⟨_, rfl, rfl⟩⟩

/-- The hypothesis of IrqLatchClearsCount, IrqEnableSetsEnabledFromBitZero, IrqAckClearsPendingOnly,
UnmappedWriteChangesNothing, IrqPollAnswersPending, PeekCountAnswersCount, ResetHardGivesThePowerOnState and
ResetSoftKeepsTheProgrammedState: a built state. -/
theorem witness_built_state : ∃ c, example0.chip = some c := ⟨_, rfl⟩

theorem witness_PpuAddrFiltersRisingTransitions :
    ¬(exampleBlock.a12Prev = false ∧ (0x1000 : Addr16).getLsbD 12 = true) ∧
    (lowBlock.a12Prev = false ∧ (0x1000 : Addr16).getLsbD 12 = true) ∧
    ({ lowBlock with lastEdge := none } : Block).lastEdge = none ∧
    lowBlock.lastEdge = some 0x1234 ∧
    (0x1233 : Time).toNat < (0x1234 : Time).toNat ∧
    (0x1234 : Time).toNat ≤ (0x1244 : Time).toNat ∧
    Config.ref.filterWindow ≤ (0x1244 : Time).toNat - (0x1234 : Time).toNat ∧
    ¬Config.ref.filterWindow ≤ (0x1243 : Time).toNat - (0x1234 : Time).toNat ∧
    ¬Config.ref.filterWindow < (0x1244 : Time).toNat - (0x1234 : Time).toNat ∧
    Config.ref.filterWindow < (0x1245 : Time).toNat - (0x1234 : Time).toNat := by decide

/-- The three clauses: count 1 in REF (next is 0), the same held, count 2 (next is 1), count 0 (next is the reload). -/
theorem witness_CounterClockReloadsDecrementsOrTriggers :
    ((0 : Byte).toNat + 1 = (1 : Byte).toNat ∧ exampleBlock.enabled = true ∧ Config.ref.zeroPolicy = .reloadOnTrigger) ∧
    (Config.zeroPolicy { Config.ref with zeroPolicy := .holdAtBoundary } = .holdAtBoundary) ∧
    ((1 : Byte).toNat + 1 = (2 : Byte).toNat ∧ (1 : Byte) ≠ 0) ∧
    ({ exampleBlock with count := 0 } : Block).count = 0 := by decide

theorem witness_PendingRisesOnlyOnATriggerOrLoad :
    (blockAfter (exec (.ppuAddr 0x1000 0x1244) (machineOf Config.ref { lowBlock with count := 1 }))).map Block.pending = some true ∧
    (blockAfter (exec (.irqAck 0xF003 0) (machineOf Config.ref { exampleBlock with pending := true }))).map Block.pending
      = some false := by decide

/-- R101 and R104 (log 15): the accepted PPU_ADDR given again at once changes nothing more. -/
theorem test_ppuAddr_twice :
    nextState? (runEvents [.ppuAddr 0x1000 0x1244, .ppuAddr 0x1000 0x1244] (machineOf Config.ref lowBlock))
      = nextState? (exec (.ppuAddr 0x1000 0x1244) (machineOf Config.ref lowBlock)) := by decide

theorem witness_EachFieldHasOnlyItsWriters :
    ((blockAfter (exec (.ppuAddr 0x1000 0x1244) (machineOf Config.ref lowBlock))).map
      (fun b => (decide (b.count = lowBlock.count), decide (b.lastEdge = lowBlock.lastEdge))) = some (false, false)) ∧
    (blockAfter (exec (.irqLatch 0xF001 0) example0)).map (fun b => decide (b.count = exampleBlock.count)) = some false ∧
    (blockAfter (exec (.irqReloadValue 0xF000 9) example0)).map (fun b => decide (b.reload = exampleBlock.reload)) = some false ∧
    (blockAfter (exec (.irqEnable 0xF002 0) example0)).map (fun b => decide (b.enabled = exampleBlock.enabled)) = some false ∧
    (blockAfter (exec (.bankSelect 7 0x8007 9) example0)).map (fun b => decide (b.banks = exampleBlock.banks)) = some false ∧
    (blockAfter (exec .resetSoft example0)).map (fun b => decide (b.lastEdge = exampleBlock.lastEdge)) = some false ∧
    (blockAfter (exec (.ppuAddr 0 0) example0)).map (fun b => decide (b.a12Prev = exampleBlock.a12Prev)) = some false := by
  decide

theorem witness_AcceptedEdgesAreAWindowApart :
    lowBlock.lastEdge = some 0x1234 ∧
    (blockAfter (exec (.ppuAddr 0x1000 0x1244) (machineOf Config.ref lowBlock))).map Block.lastEdge = some (some 0x1244) ∧
    (blockAfter (exec (.ppuAddr 0x1000 0x1245) (machineOf { Config.ref with filterStrict := true } lowBlock))).map Block.lastEdge
      = some (some 0x1245) := by decide

theorem witness_FilterAcceptsGreedily :
    (∃ c, (machineOf Config.ref { lowBlock with lastEdge := none }).chip = some c ∧ c.cfg.filterStrict = false ∧
      c.blk.lastEdge = none ∧ c.blk.a12Prev = false) ∧
    (0x1000 : Addr16).getLsbD 12 = true ∧ (0x0FFF : Addr16).getLsbD 12 = false ∧
    ([0, 10, 16, 31, 32] : List Time).Pairwise (fun x y => x.toNat ≤ y.toNat) ∧
    greedyEdges 16 none [0, 10, 16, 31, 32] = [0, 16, 32] :=
  ⟨⟨_, rfl, rfl, rfl, rfl⟩, by decide, by decide, by decide, by decide⟩

/-- R = 7 from count 0: edge 8 is the first trigger (V-SRC-1); from count 3 it is edge 3. -/
theorem witness_FirstTriggerEdge :
    (({ exampleBlock with count := 0 } : Block).count = 0 ∧ exampleBlock.enabled = true ∧
      edgeTriggers Config.ref { exampleBlock with count := 0 } 8 = true ∧
      edgeTriggers Config.ref { exampleBlock with count := 0 } 7 = false) ∧
    edgeTriggers Config.ref exampleBlock 3 = true := by decide

/-- V-CNT-1, V-CNT-2 and V-CNT-3. -/
theorem witness_TriggersComeAtThePolicysPeriod :
    edgeTriggers Config.ref { exampleBlock with count := 0, reload := 3 } 7 = true ∧
    edgeTriggers { Config.ref with zeroPolicy := .holdAtBoundary } { exampleBlock with count := 0, reload := 3 } 8 = true ∧
    edgeTriggers Config.ref { exampleBlock with count := 0, reload := 0 } 1 = true := by decide

theorem witness_DeferredReloadWriteKeepsTheSchedule :
    ∃ c, example0.chip = some c ∧ c.cfg.reloadWritePolicy = .deferred ∧ c.blk.count ≠ 0 ∧ c.blk.enabled = true ∧
      c.cfg.zeroPolicy = .reloadOnTrigger :=
  ⟨_, rfl, rfl, by decide, rfl, rfl⟩

theorem witness_AcknowledgeAndTriggerKeepTheirOrder :
    rising { lowBlock with count := 1 } 0x1000 = true ∧
    filterAccept Config.ref lowBlock.lastEdge 0x1244 = .ok true ∧
    (counterClock Config.ref { lowBlock with count := 1 }).2 = true :=
  ⟨by decide, rfl, by decide⟩

theorem witness_QueryBankAnswersTheSelectedBank :
    example0.Inv ∧ Config.ref.bankIndex.lookup .prg 0x7FFF = none ∧ Config.ref.bankIndex.lookup .chr 0x1FFF = some 7 :=
  ⟨example0_legal, by decide, by decide⟩

theorem witness_PeekBankAnswersTheRegister :
    example0.Inv ∧ 7 < Config.ref.numBankRegs ∧ Config.ref.numBankRegs ≤ 8 :=
  ⟨example0_legal, by decide, by decide⟩

/-- Two states that differ in all four hidden fields. -/
theorem witness_OnlySerializeShowsTheHiddenFields :
    responseAfter (exec .irqPoll example0) = some (.bool false) ∧
    responseAfter (exec .irqPoll (machineOf Config.ref
      { exampleBlock with reload := 9, enabled := false, lastEdge := none, a12Prev := false })) = some (.bool false) := by decide

theorem witness_BankSelectIsSeenByTheNextQuery :
    example0.Inv ∧ Config.ref.decode.lookup 0x8003 = .bankSelect 3 ∧ Config.ref.bankIndex.lookup .prg 0xE000 = some 3 :=
  ⟨example0_legal, by decide, by decide⟩

/-- Both time clauses: a state with a last edge and one without. -/
theorem witness_SerializeWritesTheRecord :
    example0.Inv ∧ exampleBlock.lastEdge = some 0x1234 ∧ State.reset.Inv := by
  refine ⟨example0_legal, rfl, ?_⟩
  intro c hc
  cases hc
  exact ⟨by decide, by decide, by decide, by decide, by decide⟩

theorem witness_SerializedRecordsAreValid :
    example0.Inv ∧ ∃ l, responseAfter (exec .serialize example0) = some (.bytes l) :=
  ⟨example0_legal, _, rfl⟩

/-- A valid record, and one that is short. -/
theorem witness_DeserializeLoadsValidRecordsOnly :
    SaveRecordOk Config.ref (saveRecord Config.ref exampleBlock) ∧ ¬SaveRecordOk Config.ref [0x01, 0x03] := by
  refine ⟨⟨by decide, by decide, by decide, by decide, by decide, by decide, by decide, ?_⟩, ?_⟩
  · intro i hi
    have hi8 : i < 8 := hi
    interval_cases i <;> decide
  · intro h
    exact absurd h.length_eq (by decide)

theorem witness_SaveThenLoadRestoresTheBlock :
    example0.Inv ∧ ∃ b, State.reset.chip = some { cfg := Config.ref, blk := b } :=
  ⟨example0_legal, _, rfl⟩

theorem ref_acceptable : AcceptableConfig Config.ref where
  counter_width := by decide
  bank_regs := by decide
  bank_width := by decide
  window := by decide
  decode_indices := by
    intro a i h
    have hm : RegOp.bankSelect i ∈ decodeRef.outputs := (AddrMap.mem_outputs_iff _ _).2 ⟨a, h⟩
    have hall : decodeRef.outputs.all (fun op => indexBelow 8 op.index?) = true := by decide
    exact (indexBelow_iff _ _).1 (List.all_eq_true.1 hall _ hm) i rfl
  query_indices := by
    intro r a i h
    have hall : (bankIndexRef.prg.outputs ++ bankIndexRef.chr.outputs).all (indexBelow 8) = true := by decide
    have hm : some i ∈ bankIndexRef.prg.outputs ++ bankIndexRef.chr.outputs := by
      cases r
      · exact List.mem_append_left _ ((AddrMap.mem_outputs_iff _ _).2 ⟨a, h⟩)
      · exact List.mem_append_right _ ((AddrMap.mem_outputs_iff _ _).2 ⟨a, h⟩)
    exact (indexBelow_iff _ _).1 (List.all_eq_true.1 hall _ hm) i rfl

/-- REF is acceptable, width 9 is not, and both kinds of state exist. -/
theorem witness_ConstructAcceptsExactlyR9 :
    State.unbuilt.chip = none ∧ AcceptableConfig Config.ref ∧ ¬AcceptableConfig { Config.ref with counterWidth := 9 } ∧
    ∃ c, example0.chip = some c := by
  refine ⟨rfl, ref_acceptable, ?_, ⟨_, rfl⟩⟩
  intro h
  exact absurd h.counter_width.2 (by decide)

theorem witness_ResetStateIsTheHardResetOfRef : example0.chip = some { cfg := Config.ref, blk := exampleBlock } := rfl

theorem witness_GuardedSoftResetRaisesNoIrq :
    (0x00 : Byte).getLsbD 0 = false ∧
    (nextState? (runEvents [.resetSoft, .irqEnable 0xF002 0, .irqAck 0xF003 0, .ppuAddr 0x1000 10] example0)).isSome = true := by
  decide

theorem witness_EventsButPpuAddrAreIdempotent :
    (∀ a t, Instr.irqPoll ≠ .ppuAddr a t) ∧ (∀ cfg, Instr.irqPoll ≠ .construct cfg) := by
  constructor <;> intros <;> simp

theorem witness_ConfigurationIsFixedWhileTheBlockExists :
    ∃ c, example0.chip = some c ∧ (nextState? (step (example0.withFetchWord 8 0x4))).isSome = true :=
  ⟨_, rfl, by decide⟩

theorem witness_StepKeepsTheStateLegal :
    (machineOf Config.ref lowBlock).Inv ∧
    (nextState? (step ((machineOf Config.ref lowBlock).withFetchWord 24 0x8007FF))).isSome = true :=
  ⟨low_legal, by decide⟩

end Sys2Proof.Tests
end

section
/-! PROOFS. How a step reads its record, and what an event that goes on does: the rules that the statements about every
step or every event are proved from. -/

namespace Sys2Proof.Machine

section step
variable {s s' : State} {r : Record} {rest : List Record}

/-- The step of an empty inbox. -/
theorem step_of_inbox_nil (h : s.inbox = []) : step s = .next s := by
  simp [step, takeRecord_nil h, idle]

/-- The step of a record that spells an event. -/
theorem step_of_decode_ok {i : Instr} (h : s.inbox = r :: rest) (hd : decode s.decodeMap r = .ok i) :
    step s = exec i { s with inbox := rest } := by
  simp [step, takeRecord_cons h, readRecord, hd]

/-- The step of a record that spells no event. -/
theorem step_of_decode_error {e : DecodeError} (h : s.inbox = r :: rest) (hd : decode s.decodeMap r = .error e) :
    step s = rejectRecord e := by
  simp [step, takeRecord_cons h, readRecord, hd]

theorem rejectRecord_ne_next (e : DecodeError) : rejectRecord e ≠ .next s' := by
  cases e <;> simp [rejectRecord]

/-- A step that goes on found no record, or ran the event that the oldest record spells. -/
theorem step_next_cases (h : step s = .next s') :
    (s.inbox = [] ∧ s' = s) ∨
    ∃ r rest i, s.inbox = r :: rest ∧ decode s.decodeMap r = .ok i ∧ exec i { s with inbox := rest } = .next s' := by
  cases hi : s.inbox with
  | nil =>
    rw [step_of_inbox_nil hi] at h
    cases h
    exact .inl ⟨rfl, rfl⟩
  | cons r rest =>
    cases hd : decode s.decodeMap r with
    | error e => exact absurd ((step_of_decode_error hi hd).symm.trans h) (rejectRecord_ne_next e)
    | ok i => exact .inr ⟨r, rest, i, rfl, hd, (step_of_decode_ok hi hd).symm.trans h⟩

end step

/-- `EventWrites c i b`: the event `i`, when it goes on, leaves the block `b` in the chip `c`. One constructor for each
way an event on an existing block can go on (`exec_next_built`); CONSTRUCT has none (R250). -/
inductive EventWrites (c : Chip) : Instr → Block → Prop
  | bankSelect (k : Nat) (a : Addr16) (d : Byte) :
    EventWrites c (.bankSelect k a d) (writeBank c.blk k (bankOfData c.cfg d))
  | irqReloadValue (a : Addr16) (d : Byte) : EventWrites c (.irqReloadValue a d) (writeReload c.cfg c.blk d)
  | irqLatch (a : Addr16) (d : Byte) : EventWrites c (.irqLatch a d) { c.blk with count := 0 }
  | irqEnable (a : Addr16) (d : Byte) : EventWrites c (.irqEnable a d) (setEnabled c.blk (enableOfData d))
  | irqAck (a : Addr16) (d : Byte) : EventWrites c (.irqAck a d) (clearPending c.blk)
  | unmappedWrite (a : Addr16) (d : Byte) : EventWrites c (.unmappedWrite a d) c.blk
  | ppuAddr {a : Addr16} {t : Time} {b : Block} (h : observeAddress c.cfg c.blk a t = .ok b) :
    EventWrites c (.ppuAddr a t) b
  | irqPoll : EventWrites c .irqPoll c.blk
  | queryBank (r : Region) (a : Addr16) : EventWrites c (.queryBank r a) c.blk
  | resetHard : EventWrites c .resetHard (hardReset c.cfg c.blk)
  | resetSoft : EventWrites c .resetSoft (softReset c.cfg c.blk)
  | serialize : EventWrites c .serialize c.blk
  | deserializeValid {l : List Byte} (h : recordValid c.cfg l = true) :
    EventWrites c (.deserialize l) (loadRecord c.cfg l)
  | deserializeInvalid {l : List Byte} (h : recordValid c.cfg l = false) : EventWrites c (.deserialize l) c.blk
  | peekBank (k : Nat) : EventWrites c (.peekBank k) c.blk
  | peekCount : EventWrites c .peekCount c.blk

section exec
variable {s s' : State} {c : Chip} {i : Instr}

/-- If an event on the existing chip `c` goes on, its own part went on from `c`. -/
theorem onChip_built_next {act : Chip → StepOutcome} (hc : s.chip = some c) (h : onChip s act = .next s') :
    act c = .next s' :=
  (onChip_built act hc).symm.trans h

/-- The event `i` on the existing chip `c` keeps the inbox and the configuration, and leaves a block that
`EventWrites` allows. -/
def KeepsChip (c : Chip) (i : Instr) (s s' : State) : Prop :=
  s'.inbox = s.inbox ∧ ∃ b, EventWrites c i b ∧ s'.chip = some ⟨c.cfg, b⟩

theorem update_keepsChip {b : Block} (hw : EventWrites c i b) (h : update s c b = .next s') : KeepsChip c i s s' := by
  obtain ⟨hchip, hinbox, -⟩ := update_next h
  exact ⟨hinbox, b, hw, hchip⟩

theorem answer_keepsChip {r : Response} (hc : s.chip = some c) (hw : EventWrites c i c.blk)
    (h : answer s r = .next s') : KeepsChip c i s s' := by
  obtain ⟨hchip, hinbox, -⟩ := answer_next h
  exact ⟨hinbox, c.blk, hw, hchip.trans hc⟩

theorem execPpuAddr_keepsChip {a : Addr16} {t : Time} (hc : s.chip = some c) (h : execPpuAddr a t s = .next s') :
    KeepsChip c (.ppuAddr a t) s s' := by
  obtain ⟨c₁, b, hc₁, hobs, rfl⟩ := execPpuAddr_next a t h
  obtain rfl : c = c₁ := Option.some.inj (hc.symm.trans hc₁)
  exact ⟨rfl, b, .ppuAddr hobs, rfl⟩

theorem execDeserialize_keepsChip {l : List Byte} (hc : s.chip = some c) (h : execDeserialize l s = .next s') :
    KeepsChip c (.deserialize l) s s' := by
  rw [execDeserialize, onChip_built _ hc] at h
  cases hv : recordValid c.cfg l with
  | true =>
    rw [if_pos hv] at h
    exact update_keepsChip (.deserializeValid hv) h
  | false =>
    rw [if_neg (by simp [hv])] at h
    exact answer_keepsChip hc (.deserializeInvalid hv) h

/-- CONSTRUCT when the block exists (70_reset_and_hazards.md R250). -/
theorem execConstruct_built (cfg : Config) (hc : s.chip = some c) : execConstruct cfg s = .fault .alreadyConstructed := by
  simp [execConstruct, hc]

/-- What an event on a block that exists does when it goes on. -/
theorem exec_next_built (hc : s.chip = some c) (h : exec i s = .next s') : KeepsChip c i s s' := by
  cases i with
  | bankSelect k a d => exact update_keepsChip (.bankSelect k a d) (onChip_built_next hc h)
  | irqReloadValue a d => exact update_keepsChip (.irqReloadValue a d) (onChip_built_next hc h)
  | irqLatch a d => exact update_keepsChip (.irqLatch a d) (onChip_built_next hc h)
  | irqEnable a d => exact update_keepsChip (.irqEnable a d) (onChip_built_next hc h)
  | irqAck a d => exact update_keepsChip (.irqAck a d) (onChip_built_next hc h)
  | unmappedWrite a d => exact update_keepsChip (.unmappedWrite a d) (onChip_built_next hc h)
  | ppuAddr a t => exact execPpuAddr_keepsChip hc h
  | irqPoll => exact answer_keepsChip hc .irqPoll (onChip_built_next hc h)
  | queryBank r a => exact answer_keepsChip hc (.queryBank r a) (onChip_built_next hc h)
  | resetHard => exact update_keepsChip .resetHard (onChip_built_next hc h)
  | resetSoft => exact update_keepsChip .resetSoft (onChip_built_next hc h)
  | serialize => exact answer_keepsChip hc .serialize (onChip_built_next hc h)
  | deserialize l => exact execDeserialize_keepsChip hc h
  | peekBank k => exact answer_keepsChip hc (.peekBank k) (onChip_built_next hc h)
  | peekCount => exact answer_keepsChip hc .peekCount (onChip_built_next hc h)
  | construct cfg => cases (execConstruct_built cfg hc).symm.trans h

/-- CONSTRUCT without a block (70_reset_and_hazards.md R250). -/
theorem execConstruct_unbuilt (cfg : Config) (hc : s.chip = none) :
    execConstruct cfg s = if cfg.valid then .next { s with chip := some ⟨cfg, freshBlock cfg⟩, resp := .nothing }
      else report s .configError := by
  simp [execConstruct, hc]

/-- Without a block only CONSTRUCT goes on (70_reset_and_hazards.md R251): it creates the block or reports. -/
theorem exec_next_unbuilt (hc : s.chip = none) (h : exec i s = .next s') :
    s'.inbox = s.inbox ∧ ∃ cfg, i = .construct cfg ∧
      ((cfg.valid = true ∧ s'.chip = some ⟨cfg, freshBlock cfg⟩) ∨ (cfg.valid = false ∧ s'.chip = none)) := by
  cases i with
  | construct cfg =>
    replace h := (execConstruct_unbuilt cfg hc).symm.trans h
    cases hv : cfg.valid with
    | true =>
      rw [if_pos hv] at h
      cases h
      exact ⟨rfl, cfg, rfl, .inl ⟨hv, rfl⟩⟩
    | false =>
      rw [if_neg (by simp [hv])] at h
      obtain ⟨hchip, hinbox, -⟩ := report_next h
      exact ⟨hinbox, cfg, rfl, .inr ⟨hv, hchip.trans hc⟩⟩
  | _ => cases (onChip_unbuilt _ hc).symm.trans h

/-- No event touches the events that wait. -/
theorem exec_next_inbox (h : exec i s = .next s') : s'.inbox = s.inbox := by
  cases hc : s.chip with
  | none => exact (exec_next_unbuilt hc h).1
  | some c => exact (exec_next_built hc h).1

/-- A step of a built machine that goes on leaves the chip alone or runs one event on it. -/
theorem step_next_built (hc : s.chip = some c) (h : step s = .next s') :
    s' = s ∨ ∃ i b, EventWrites c i b ∧ s'.chip = some ⟨c.cfg, b⟩ := by
  rcases step_next_cases h with ⟨-, rfl⟩ | ⟨r, rest, i, -, -, hexec⟩
  · exact .inl rfl
  · have hc' : State.chip { s with inbox := rest } = some c := hc
    obtain ⟨-, b, hw, hchip⟩ := exec_next_built hc' hexec
    exact .inr ⟨i, b, hw, hchip⟩

end exec

end Sys2Proof.Machine
end

section
/-! PROOFS. Who moves `pending` (10_state.md R26). -/

namespace Sys2Proof.Machine

section pending
variable (cfg : Config) (b : Block)

@[simp] theorem counterClock_snd : (counterClock cfg b).2 = triggers b (nextCount b) := by
  cases ht : triggers b (nextCount b) <;> simp [counterClock, ht]

@[simp] theorem counterClock_pending : (counterClock cfg b).1.pending = (b.pending || triggers b (nextCount b)) := by
  cases ht : triggers b (nextCount b) <;> simp [counterClock, ht]

@[simp] theorem commitEdge_pending (t : Time) :
    (commitEdge cfg b t).pending = (b.pending || triggers b (nextCount b)) :=
  counterClock_pending cfg { b with lastEdge := some t }

@[simp] theorem writeReload_pending (d : Byte) : (writeReload cfg b d).pending = b.pending := by
  unfold writeReload
  split <;> rfl

/-- PPU_ADDR keeps `pending`, but for an accepted edge that triggers (40_a12_filter.md R103, 41_irq_counter.md R121). -/
theorem observeAddress_pending {b' : Block} {a : Addr16} {t : Time} (h : observeAddress cfg b a t = .ok b') :
    b'.pending = b.pending ∨
      (b'.pending = true ∧ rising b a = true ∧ filterAccept cfg b.lastEdge t = .ok true ∧ (counterClock cfg b).2 = true) := by
  rcases observeAddress_cases cfg b a t with ⟨-, h'⟩ | ⟨-, _, -, -, h'⟩ | ⟨-, _, -, -, -, h'⟩ | ⟨hr, hf, h'⟩ <;>
    rw [h] at h' <;> cases h'
  · exact .inl rfl
  · exact .inl rfl
  · rw [commitEdge_pending, counterClock_snd]
    change (b.pending || triggers b (nextCount b)) = b.pending ∨
      ((b.pending || triggers b (nextCount b)) = true ∧ _)
    cases ht : triggers b (nextCount b)
    · exact .inl (Bool.or_false _)
    · exact .inr ⟨Bool.or_true _, hr, (filterAccept_ok_true_iff cfg t b.lastEdge).2 hf, rfl⟩

end pending

section pendingMoves
variable {c : Chip} {i : Instr} {b : Block}

/-- The four things an event can do to `pending`: keep it, raise it by a triggering edge, clear it, or load it. -/
theorem EventWrites.pending_cases (h : EventWrites c i b) :
    b.pending = c.blk.pending ∨
    (b.pending = true ∧ ∃ a t, i = .ppuAddr a t ∧ rising c.blk a = true ∧
      filterAccept c.cfg c.blk.lastEdge t = .ok true ∧ (counterClock c.cfg c.blk).2 = true) ∨
    (b.pending = false ∧ ((∃ a d, i = .irqAck a d) ∨ i = .resetHard ∨ i = .resetSoft)) ∨
    ∃ l, i = .deserialize l := by
  cases h with
  | ppuAddr hobs =>
    rcases observeAddress_pending c.cfg c.blk hobs with hkeep | ⟨hset, hedge⟩
    · exact .inl hkeep
    · exact .inr (.inl ⟨hset, _, _, rfl, hedge⟩)
  | irqAck a d => exact .inr (.inr (.inl ⟨rfl, .inl ⟨a, d, rfl⟩⟩))
  | resetHard => exact .inr (.inr (.inl ⟨by rw [hardReset_eq], .inr (.inl rfl)⟩))
  | resetSoft => exact .inr (.inr (.inl ⟨by rw [softReset_eq], .inr (.inr rfl)⟩))
  | deserializeValid _ => exact .inr (.inr (.inr ⟨_, rfl⟩))
  | irqReloadValue a d => exact .inl (writeReload_pending c.cfg c.blk d)
  | _ => exact .inl rfl

/-- `pending` rises only by an accepted edge that triggers, or by a load. -/
theorem EventWrites.pending_rise (h : EventWrites c i b) (h0 : c.blk.pending = false) (h1 : b.pending = true) :
    (∃ a t, i = .ppuAddr a t ∧ rising c.blk a = true ∧ filterAccept c.cfg c.blk.lastEdge t = .ok true ∧
      (counterClock c.cfg c.blk).2 = true) ∨ ∃ l, i = .deserialize l := by
  rcases h.pending_cases with hkeep | ⟨-, hedge⟩ | ⟨hclear, -⟩ | hload
  · simp [hkeep, h0] at h1
  · exact .inl hedge
  · simp [hclear] at h1
  · exact .inr hload

/-- `pending` falls only by IRQ_ACK, a reset or a load. -/
theorem EventWrites.pending_fall (h : EventWrites c i b) (h1 : c.blk.pending = true) (h0 : b.pending = false) :
    (∃ a d, i = .irqAck a d) ∨ i = .resetHard ∨ i = .resetSoft ∨ ∃ l, i = .deserialize l := by
  rcases h.pending_cases with hkeep | ⟨hset, -⟩ | ⟨-, hack | hhard | hsoft⟩ | hload
  · simp [hkeep, h1] at h0
  · simp [hset] at h0
  · exact .inl hack
  · exact .inr (.inl hhard)
  · exact .inr (.inr (.inl hsoft))
  · exact .inr (.inr (.inr hload))

/-- Only the PPU and the save-state framework issue an event that raises `pending` (00_scope.md R5). -/
theorem EventWrites.issuer_of_pending_rise (h : EventWrites c i b) (h0 : c.blk.pending = false)
    (h1 : b.pending = true) : i.issuer = .ppu ∨ i.issuer = .saveStateFramework := by
  rcases h.pending_rise h0 h1 with ⟨a, t, rfl, -⟩ | ⟨l, rfl⟩
  · exact .inl rfl
  · exact .inr rfl

theorem irqLine_built {s : State} (hc : s.chip = some c) : s.irqLine = c.blk.pending := by
  simp [State.irqLine, hc]

end pendingMoves

end Sys2Proof.Machine
end

section
/-! PROOFS. The check of CONSTRUCT is 00_scope.md R9. -/

namespace Sys2Proof

/-- A check on every listed answer is a check on the answer at every address. -/
theorem AddrMap.all_outputs_iff {α : Type} (m : AddrMap α) (p : α → Bool) :
    m.outputs.all p = true ↔ ∀ a, p (m.lookup a) = true := by
  simp [List.all_eq_true, AddrMap.mem_outputs_iff]

/-- The machine's check on `DECODE`, in R9's words. -/
theorem decode_indexBelow_iff (m : AddrMap RegOp) (n : Nat) :
    m.outputs.all (fun op => indexBelow n op.index?) = true ↔ ∀ a i, m.lookup a = .bankSelect i → i < n := by
  simp only [AddrMap.all_outputs_iff, indexBelow_iff, RegOp.index?_eq_some]

/-- The machine's check on one map of `BANK_INDEX`, in R9's words. -/
theorem bankIndex_indexBelow_iff (m : AddrMap (Option Nat)) (n : Nat) :
    m.outputs.all (indexBelow n) = true ↔ ∀ a i, m.lookup a = some i → i < n := by
  simp only [AddrMap.all_outputs_iff, indexBelow_iff]

/-- `Config.valid` decides 00_scope.md R9. -/
theorem Config.valid_iff (cfg : Config) : cfg.valid = true ↔ AcceptableConfig cfg := by
  simp only [Config.valid, Bool.and_eq_true, decide_eq_true_eq, decode_indexBelow_iff, bankIndex_indexBelow_iff]
  constructor
  · rintro ⟨⟨⟨⟨⟨⟨⟨⟨⟨hw1, hw8⟩, hn1⟩, hn8⟩, hb1⟩, hb8⟩, hwin⟩, hdec⟩, hprg⟩, hchr⟩
    refine ⟨⟨hw1, hw8⟩, ⟨hn1, hn8⟩, ⟨hb1, hb8⟩, hwin, hdec, ?_⟩
    rintro (_ | _)
    · exact hprg
    · exact hchr
  · rintro ⟨⟨hw1, hw8⟩, ⟨hn1, hn8⟩, ⟨hb1, hb8⟩, hwin, hdec, hquery⟩
    exact ⟨⟨⟨⟨⟨⟨⟨⟨⟨hw1, hw8⟩, hn1⟩, hn8⟩, hb1⟩, hb8⟩, hwin⟩, hdec⟩, hquery .prg⟩, hquery .chr⟩

namespace Machine

/-- The block of CONSTRUCT is the power-on block (70_reset_and_hazards.md R250). -/
theorem freshBlock_eq (cfg : Config) : freshBlock cfg =
    { count := 0, reload := 0, enabled := false, pending := false, banks := List.replicate cfg.numBankRegs 0,
      lastEdge := none, a12Prev := cfg.a12PrevReset } :=
  hardReset_eq cfg _

/-- CONSTRUCT without a block, of an acceptable configuration. -/
theorem exec_construct_of_acceptable {s : State} {cfg : Config} (hc : s.chip = none) (h : AcceptableConfig cfg) :
    exec (.construct cfg) s = .next { s with chip := some ⟨cfg, freshBlock cfg⟩, resp := .nothing } :=
  (execConstruct_unbuilt cfg hc).trans (if_pos ((Config.valid_iff cfg).2 h))

/-- CONSTRUCT without a block, of any other configuration. -/
theorem exec_construct_of_not_acceptable {s : State} {cfg : Config} (hc : s.chip = none) (h : ¬AcceptableConfig cfg) :
    exec (.construct cfg) s = report s .configError :=
  (execConstruct_unbuilt cfg hc).trans (if_neg fun hv => h ((Config.valid_iff cfg).1 hv))

end Machine

end Sys2Proof
end

section
/-! PROOFS. The statements of 00_scope.md. -/

namespace Sys2Proof.Proofs

open Sys2Proof.Machine

/-- Settles O11: the idle step has no record to take, and no event touches the inbox left by taking one. -/
theorem stepTakesOneRecord : Obligations.StepTakesOneRecord := by
  unfold Obligations.StepTakesOneRecord
  intro s s' h
  rcases step_next_cases h with ⟨hnil, rfl⟩ | ⟨r, rest, i, hcons, -, hexec⟩
  · simp [hnil]
  · simpa [hcons] using exec_next_inbox hexec

/-- Settles O21, from the four things an event can do to `pending`. -/
theorem pendingRisesOnlyOnATriggerOrLoad : Obligations.PendingRisesOnlyOnATriggerOrLoad := by
  unfold Obligations.PendingRisesOnlyOnATriggerOrLoad
  intro i s s' c c' hc hexec hc'
  obtain ⟨-, b, hw, hchip⟩ := exec_next_built hc hexec
  obtain rfl : c' = ⟨c.cfg, b⟩ := Option.some.inj (hc'.symm.trans hchip)
  rw [irqLine_built hc, irqLine_built hchip]
  exact ⟨hw.pending_rise, hw.pending_fall, hw.issuer_of_pending_rise⟩

/-- Settles O39: the machine's check is R9's, and the block created is the power-on block. -/
theorem constructAcceptsExactlyR9 : Obligations.ConstructAcceptsExactlyR9 := by
  unfold Obligations.ConstructAcceptsExactlyR9
  refine ⟨?accepts, ?rejects, ?built, ?record⟩
  case accepts =>
    intro s cfg hc h
    rw [exec_construct_of_acceptable hc h, freshBlock_eq]
  case rejects =>
    intro s cfg hc h
    exact exec_construct_of_not_acceptable hc h
  case built =>
    intro s c cfg hc
    exact execConstruct_built cfg hc
  case record =>
    intro dec cfg
    rfl

/-- Settles O47: every event that goes on keeps the chip's configuration; REF is read off its definition. -/
theorem configurationIsFixedWhileTheBlockExists : Obligations.ConfigurationIsFixedWhileTheBlockExists := by
  unfold Obligations.ConfigurationIsFixedWhileTheBlockExists
  refine ⟨?fixed, rfl, rfl, rfl, rfl, rfl, rfl, rfl, rfl, rfl⟩
  case fixed =>
    intro s s' c hc h
    rcases step_next_built hc h with rfl | ⟨i, b, -, hchip⟩
    · exact ⟨c.blk, hc⟩
    · exact ⟨b, hchip⟩

/-- Settles O9: the step takes the record, and taking it leaves the `DECODE` in force. -/
theorem stepRunsTheDecodedEvent : Obligations.StepRunsTheDecodedEvent := by
  unfold Obligations.StepRunsTheDecodedEvent
  intro s r rest i hinbox hdecode
  exact step_of_decode_ok hinbox hdecode

/-- Settles O10, by the rules of the idle step and of a record that spells no event. -/
theorem stepWithoutAnEvent : Obligations.StepWithoutAnEvent := by
  unfold Obligations.StepWithoutAnEvent
  refine ⟨?idle, ?malformed⟩
  case idle =>
    intro s hnil
    exact step_of_inbox_nil hnil
  case malformed =>
    intro s r rest hinbox hdecode
    exact step_of_decode_error hinbox hdecode

end Sys2Proof.Proofs
end

section
/-! PROOFS. What the operations leave of each field: the accepted edge and the reload write, field by field, and the two
ways PPU_ADDR goes on. -/

namespace Sys2Proof.Machine

section commitEdge
variable (cfg : Config) (b : Block) (t : Time)

@[simp] theorem commitEdge_reload : (commitEdge cfg b t).reload = b.reload :=
  counterClock_reload cfg { b with lastEdge := some t }

@[simp] theorem commitEdge_enabled : (commitEdge cfg b t).enabled = b.enabled :=
  counterClock_enabled cfg { b with lastEdge := some t }

@[simp] theorem commitEdge_banks : (commitEdge cfg b t).banks = b.banks :=
  counterClock_banks cfg { b with lastEdge := some t }

@[simp] theorem commitEdge_lastEdge : (commitEdge cfg b t).lastEdge = some t :=
  counterClock_lastEdge cfg { b with lastEdge := some t }

end commitEdge

section writeReload
variable (cfg : Config) (b : Block) (d : Byte)

/-- The running count is loaded under Immediate alone (42_register_writes.md R153, R154). -/
theorem writeReload_eq : writeReload cfg b d =
    { b with
      reload := countOfData cfg d
      count := if cfg.reloadWritePolicy = .immediate then countOfData cfg d else b.count } := by
  cases hp : cfg.reloadWritePolicy <;> simp [writeReload, hp]

@[simp] theorem writeReload_enabled : (writeReload cfg b d).enabled = b.enabled := by rw [writeReload_eq]
@[simp] theorem writeReload_banks : (writeReload cfg b d).banks = b.banks := by rw [writeReload_eq]
@[simp] theorem writeReload_lastEdge : (writeReload cfg b d).lastEdge = b.lastEdge := by rw [writeReload_eq]
@[simp] theorem writeReload_a12Prev : (writeReload cfg b d).a12Prev = b.a12Prev := by rw [writeReload_eq]

end writeReload

section observeAddress
variable {cfg : Config} {b b' : Block} {a : Addr16} {t : Time}

/-- The two ways PPU_ADDR goes on (40_a12_filter.md R104): only the A12 level is new, or the edge is accepted. -/
theorem observeAddress_ok_cases (h : observeAddress cfg b a t = .ok b') :
    b' = { b with a12Prev := a12 a } ∨
    (rising b a = true ∧ filterAccept cfg b.lastEdge t = .ok true ∧
      b' = commitEdge cfg { b with a12Prev := a12 a } t) := by
  rcases observeAddress_cases cfg b a t with ⟨-, h'⟩ | ⟨-, _, -, -, h'⟩ | ⟨-, _, -, -, -, h'⟩ | ⟨hr, hf, h'⟩ <;>
    rw [h] at h' <;> cases h'
  · exact .inl rfl
  · exact .inl rfl
  · exact .inr ⟨hr, (filterAccept_ok_true_iff cfg t b.lastEdge).2 hf, rfl⟩

theorem observeAddress_reload (h : observeAddress cfg b a t = .ok b') : b'.reload = b.reload := by
  rcases observeAddress_ok_cases h with rfl | ⟨-, -, rfl⟩ <;> simp

theorem observeAddress_enabled (h : observeAddress cfg b a t = .ok b') : b'.enabled = b.enabled := by
  rcases observeAddress_ok_cases h with rfl | ⟨-, -, rfl⟩ <;> simp

theorem observeAddress_banks (h : observeAddress cfg b a t = .ok b') : b'.banks = b.banks := by
  rcases observeAddress_ok_cases h with rfl | ⟨-, -, rfl⟩ <;> simp

end observeAddress

end Sys2Proof.Machine
end

section
/-! PROOFS. Every operation keeps a block in range, and so every step keeps the state legal (10_state.md R33 (a)). -/

namespace Sys2Proof.Machine

section inRange
variable {cfg : Config} {b : Block}

/-- The ranges speak of `count`, `reload` and the banks alone. -/
theorem Block.InRange.of_fields_eq {b' : Block} (hb : b.InRange cfg) (hcount : b'.count = b.count)
    (hreload : b'.reload = b.reload) (hbanks : b'.banks = b.banks) : b'.InRange cfg where
  count_lt := hcount ▸ hb.count_lt
  reload_lt := hreload ▸ hb.reload_lt
  banks_length := hbanks ▸ hb.banks_length
  banks_lt := hbanks ▸ hb.banks_lt

theorem Block.InRange.with_count (hb : b.InRange cfg) {n : Byte} (hn : n.toNat < 2 ^ cfg.counterWidth) :
    Block.InRange cfg { b with count := n } :=
  { hb with count_lt := hn }

theorem Block.InRange.with_reload (hb : b.InRange cfg) {n : Byte} (hn : n.toNat < 2 ^ cfg.counterWidth) :
    Block.InRange cfg { b with reload := n } :=
  { hb with reload_lt := hn }

theorem zero_toNat_lt_two_pow (n : Nat) : (0 : Byte).toNat < 2 ^ n :=
  Nat.two_pow_pos n

/-- The decrement of a clean edge does not wrap: a zero count is reloaded (41_irq_counter.md R120). -/
theorem nextCount_lt (hb : b.InRange cfg) : (nextCount b).toNat < 2 ^ cfg.counterWidth := by
  have hcount := hb.count_lt
  by_cases h0 : b.count = 0
  · simpa [nextCount, h0] using hb.reload_lt
  · have hpred : (nextCount b).toNat < b.count.toNat := by
      simp only [nextCount, if_neg h0]
      bv_omega
    omega

theorem countAfterTrigger_lt (hb : b.InRange cfg) : (countAfterTrigger cfg b).toNat < 2 ^ cfg.counterWidth := by
  cases hz : cfg.zeroPolicy with
  | reloadOnTrigger => simpa [countAfterTrigger, hz] using hb.reload_lt
  | holdAtBoundary => simp [countAfterTrigger, hz]

theorem counterClock_inRange (hb : b.InRange cfg) : (counterClock cfg b).1.InRange cfg := by
  rcases counterClock_cases cfg b with ⟨-, -, h⟩ | ⟨-, h⟩
  · rw [h]
    exact (hb.with_count (countAfterTrigger_lt hb)).of_fields_eq rfl rfl rfl
  · rw [h]
    exact hb.with_count (nextCount_lt hb)

theorem observeAddress_inRange {b' : Block} {a : Addr16} {t : Time} (hb : b.InRange cfg)
    (h : observeAddress cfg b a t = .ok b') : b'.InRange cfg := by
  rcases observeAddress_ok_cases h with rfl | ⟨-, -, rfl⟩
  · exact hb.of_fields_eq rfl rfl rfl
  · exact counterClock_inRange (hb.of_fields_eq rfl rfl rfl)

theorem writeBank_inRange (hb : b.InRange cfg) (k : Nat) (d : Byte) :
    (writeBank b k (bankOfData cfg d)).InRange cfg :=
  { hb with
    banks_length := List.length_set.trans hb.banks_length
    banks_lt := fun x hx => (List.mem_or_eq_of_mem_set hx).elim (hb.banks_lt x)
      fun hx => hx ▸ trunc_lt cfg.bankWidth d }

theorem writeReload_inRange (hb : b.InRange cfg) (d : Byte) : (writeReload cfg b d).InRange cfg := by
  have hd : (countOfData cfg d).toNat < 2 ^ cfg.counterWidth := trunc_lt cfg.counterWidth d
  rw [writeReload_eq]
  split
  · exact (hb.with_reload hd).with_count hd
  · exact hb.with_reload hd

/-- The power-on block is in range whatever the block was before. -/
theorem hardReset_inRange (cfg : Config) (b : Block) : (hardReset cfg b).InRange cfg := by
  rw [hardReset_eq]
  exact {
    count_lt := zero_toNat_lt_two_pow _
    reload_lt := zero_toNat_lt_two_pow _
    banks_length := List.length_replicate
    banks_lt := fun x hx => List.eq_of_mem_replicate hx ▸ zero_toNat_lt_two_pow _ }

theorem freshBlock_inRange (cfg : Config) : (freshBlock cfg).InRange cfg :=
  hardReset_inRange cfg _

theorem softReset_inRange (hb : b.InRange cfg) : (softReset cfg b).InRange cfg := by
  rw [softReset_eq]
  exact hb.of_fields_eq rfl rfl rfl

/-- A valid save record has 13 bytes and the N banks (44_save_state.md R203). -/
theorem recordValid_length {l : List Byte} (h : recordValid cfg l = true) : l.length = 13 + cfg.numBankRegs := by
  simp only [recordValid, Bool.and_eq_true, decide_eq_true_eq] at h
  obtain ⟨⟨⟨⟨⟨⟨hlength, -⟩, -⟩, -⟩, -⟩, -⟩, -⟩ := h
  exact hlength

/-- A load cuts every value to its width; the record's length gives the number of banks (R205). -/
theorem loadRecord_inRange {l : List Byte} (h : recordValid cfg l = true) : (loadRecord cfg l).InRange cfg where
  count_lt := trunc_lt _ _
  reload_lt := trunc_lt _ _
  banks_length := by simp [loadRecord, recordValid_length h]
  banks_lt := by
    intro x hx
    obtain ⟨y, -, rfl⟩ := List.mem_map.1 hx
    exact trunc_lt cfg.bankWidth y

/-- No event that goes on takes a block out of range. -/
theorem EventWrites.inRange {c : Chip} {i : Instr} (h : EventWrites c i b) (hb : c.blk.InRange c.cfg) :
    b.InRange c.cfg := by
  cases h with
  | bankSelect k a d => exact writeBank_inRange hb k d
  | irqReloadValue a d => exact writeReload_inRange hb d
  | irqLatch a d => exact hb.with_count (zero_toNat_lt_two_pow _)
  | irqEnable a d => exact hb.of_fields_eq rfl rfl rfl
  | irqAck a d => exact hb.of_fields_eq rfl rfl rfl
  | ppuAddr hobs => exact observeAddress_inRange hb hobs
  | resetHard => exact hardReset_inRange c.cfg c.blk
  | resetSoft => exact softReset_inRange hb
  | deserializeValid hv => exact loadRecord_inRange hv
  | _ => exact hb

end inRange

section inv
variable {s s' : State} {i : Instr}

theorem inv_unbuilt (hc : s.chip = none) : s.Inv := by
  simp [State.Inv, hc]

theorem inv_built_iff {c : Chip} (hc : s.chip = some c) : s.Inv ↔ c.cfg.valid = true ∧ c.blk.InRange c.cfg := by
  simp [State.Inv, hc]

/-- Every event that goes on keeps a legal state legal. -/
theorem exec_inv (hs : s.Inv) (h : exec i s = .next s') : s'.Inv := by
  cases hc : s.chip with
  | none =>
    obtain ⟨-, cfg, -, ⟨hvalid, hchip⟩ | ⟨-, hchip⟩⟩ := exec_next_unbuilt hc h
    · exact (inv_built_iff hchip).2 ⟨hvalid, freshBlock_inRange cfg⟩
    · exact inv_unbuilt hchip
  | some c =>
    obtain ⟨hvalid, hrange⟩ := (inv_built_iff hc).1 hs
    obtain ⟨-, b, hw, hchip⟩ := exec_next_built hc h
    exact (inv_built_iff hchip).2 ⟨hvalid, hw.inRange hrange⟩

/-- Every step that goes on keeps a legal state legal: taking the record leaves the chip as it was. -/
theorem step_inv (hs : s.Inv) (h : step s = .next s') : s'.Inv := by
  rcases step_next_cases h with ⟨-, rfl⟩ | ⟨r, rest, i, -, -, hexec⟩
  · exact hs
  · have htaken : State.Inv { s with inbox := rest } := hs
    exact exec_inv htaken hexec

/-- RESET_HARD when the block exists (70_reset_and_hazards.md R252). -/
theorem exec_resetHard_built {c : Chip} (hc : s.chip = some c) :
    exec .resetHard s = update s c (hardReset c.cfg c.blk) :=
  onChip_built _ hc

/-- The chip of the reset state is what RESET_HARD leaves of any block in REF (10_state.md R34; log 1). -/
theorem reset_chip (b : Block) : State.reset.chip = some ⟨Config.ref, hardReset Config.ref b⟩ := by
  rw [hardReset_eq]
  rfl

theorem reset_inv : State.reset.Inv :=
  (inv_built_iff (reset_chip _)).2 ⟨Config.ref_valid, freshBlock_inRange Config.ref⟩

end inv

end Sys2Proof.Machine
end

section
/-! PROOFS. Who writes the other fields of the block (10_state.md R23 to R25 and R27 to R29), and how far apart two accepted
edges are (R33 (b)). -/

namespace Sys2Proof.Machine

/-- The event `i` on the chip `c` is a PPU_ADDR whose rising transition the filter accepts, and the block `b` after it
holds its time (40_a12_filter.md R103). -/
def AcceptsEdge (c : Chip) (i : Instr) (b : Block) : Prop :=
  ∃ a t, i = .ppuAddr a t ∧ rising c.blk a = true ∧ filterAccept c.cfg c.blk.lastEdge t = .ok true ∧
    b.lastEdge = some t

section writers
variable {c : Chip} {i : Instr} {b : Block}

/-- A PPU_ADDR that goes on accepts an edge or writes the A12 level alone. -/
theorem ppuAddr_acceptsEdge_or {a : Addr16} {t : Time} (h : observeAddress c.cfg c.blk a t = .ok b) :
    b = { c.blk with a12Prev := a12 a } ∨ AcceptsEdge c (.ppuAddr a t) b := by
  rcases observeAddress_ok_cases h with hb | ⟨hrising, haccept, rfl⟩
  · exact .inl hb
  · exact .inr ⟨a, t, rfl, hrising, haccept, commitEdge_lastEdge c.cfg _ t⟩

theorem EventWrites.count_writers (h : EventWrites c i b) (hne : b.count ≠ c.blk.count) :
    AcceptsEdge c i b ∨ (∃ a d, i = .irqLatch a d) ∨
      (∃ a d, i = .irqReloadValue a d ∧ c.cfg.reloadWritePolicy = .immediate) ∨ i = .resetHard ∨
      ∃ l, i = .deserialize l := by
  cases h with
  | ppuAddr hobs =>
    rcases ppuAddr_acceptsEdge_or hobs with rfl | hedge
    · exact absurd rfl hne
    · exact .inl hedge
  | irqLatch a d => exact .inr (.inl ⟨a, d, rfl⟩)
  | irqReloadValue a d =>
    have himm : c.cfg.reloadWritePolicy = .immediate := by
      by_contra hp
      exact hne (by rw [writeReload_eq, if_neg hp])
    exact .inr (.inr (.inl ⟨a, d, rfl, himm⟩))
  | resetHard => exact .inr (.inr (.inr (.inl rfl)))
  | resetSoft => exact absurd (by rw [softReset_eq]) hne
  | deserializeValid _ => exact .inr (.inr (.inr (.inr ⟨_, rfl⟩)))
  | _ => exact absurd rfl hne

theorem EventWrites.reload_writers (h : EventWrites c i b) (hne : b.reload ≠ c.blk.reload) :
    (∃ a d, i = .irqReloadValue a d) ∨ i = .resetHard ∨ ∃ l, i = .deserialize l := by
  cases h with
  | ppuAddr hobs => exact absurd (observeAddress_reload hobs) hne
  | irqReloadValue a d => exact .inl ⟨a, d, rfl⟩
  | resetHard => exact .inr (.inl rfl)
  | resetSoft => exact absurd (by rw [softReset_eq]) hne
  | deserializeValid _ => exact .inr (.inr ⟨_, rfl⟩)
  | _ => exact absurd rfl hne

theorem EventWrites.enabled_writers (h : EventWrites c i b) (hne : b.enabled ≠ c.blk.enabled) :
    (∃ a d, i = .irqEnable a d) ∨ i = .resetHard ∨ (i = .resetSoft ∧ c.cfg.softResetClearsEnable = true) ∨
      ∃ l, i = .deserialize l := by
  cases h with
  | ppuAddr hobs => exact absurd (observeAddress_enabled hobs) hne
  | irqReloadValue a d => exact absurd (writeReload_enabled c.cfg c.blk d) hne
  | irqEnable a d => exact .inl ⟨a, d, rfl⟩
  | resetHard => exact .inr (.inl rfl)
  | resetSoft =>
    have hclears : c.cfg.softResetClearsEnable = true := by
      by_contra hkeep
      exact hne (by simp [softReset_eq, hkeep])
    exact .inr (.inr (.inl ⟨rfl, hclears⟩))
  | deserializeValid _ => exact .inr (.inr (.inr ⟨_, rfl⟩))
  | _ => exact absurd rfl hne

theorem EventWrites.bank_writers (h : EventWrites c i b) (k : Nat) (hne : b.banks[k]? ≠ c.blk.banks[k]?) :
    (∃ a d, i = .bankSelect k a d) ∨ i = .resetHard ∨ ∃ l, i = .deserialize l := by
  cases h with
  | bankSelect j a d =>
    obtain rfl : j = k := by
      by_contra hj
      exact hne (readBank_writeBank_other c.blk j k _ hj)
    exact .inl ⟨a, d, rfl⟩
  | ppuAddr hobs => exact absurd (by rw [observeAddress_banks hobs]) hne
  | irqReloadValue a d => exact absurd (by rw [writeReload_banks]) hne
  | resetHard => exact .inr (.inl rfl)
  | resetSoft => exact absurd (by rw [softReset_eq]) hne
  | deserializeValid _ => exact .inr (.inr ⟨_, rfl⟩)
  | _ => exact absurd rfl hne

/-- The four things an event can do to `lastEdge`: keep it, set it by an accepted edge, clear it by a reset, or load it. -/
theorem EventWrites.lastEdge_cases (h : EventWrites c i b) :
    b.lastEdge = c.blk.lastEdge ∨ AcceptsEdge c i b ∨ (b.lastEdge = none ∧ (i = .resetHard ∨ i = .resetSoft)) ∨
      ∃ l, i = .deserialize l := by
  cases h with
  | ppuAddr hobs =>
    rcases ppuAddr_acceptsEdge_or hobs with rfl | hedge
    · exact .inl rfl
    · exact .inr (.inl hedge)
  | irqReloadValue a d => exact .inl (writeReload_lastEdge c.cfg c.blk d)
  | resetHard => exact .inr (.inr (.inl ⟨filterReset_lastEdge c.cfg _, .inl rfl⟩))
  | resetSoft => exact .inr (.inr (.inl ⟨filterReset_lastEdge c.cfg _, .inr rfl⟩))
  | deserializeValid _ => exact .inr (.inr (.inr ⟨_, rfl⟩))
  | _ => exact .inl rfl

theorem EventWrites.lastEdge_writers (h : EventWrites c i b) (hne : b.lastEdge ≠ c.blk.lastEdge) :
    AcceptsEdge c i b ∨ i = .resetHard ∨ i = .resetSoft ∨ ∃ l, i = .deserialize l := by
  rcases h.lastEdge_cases with hkeep | hedge | ⟨-, hhard | hsoft⟩ | hload
  · exact absurd hkeep hne
  · exact .inl hedge
  · exact .inr (.inl hhard)
  · exact .inr (.inr (.inl hsoft))
  · exact .inr (.inr (.inr hload))

theorem EventWrites.a12Prev_writers (h : EventWrites c i b) (hne : b.a12Prev ≠ c.blk.a12Prev) :
    (∃ a t, i = .ppuAddr a t) ∨ i = .resetHard ∨ i = .resetSoft ∨ ∃ l, i = .deserialize l := by
  cases h with
  | ppuAddr _ => exact .inl ⟨_, _, rfl⟩
  | irqReloadValue a d => exact absurd (writeReload_a12Prev c.cfg c.blk d) hne
  | resetHard => exact .inr (.inl rfl)
  | resetSoft => exact .inr (.inr (.inl rfl))
  | deserializeValid _ => exact .inr (.inr (.inr ⟨_, rfl⟩))
  | _ => exact absurd rfl hne

end writers

section window
variable {c : Chip} {i : Instr} {b : Block} {l t : Time}

/-- The two comparisons of the filter (40_a12_filter.md R102). -/
theorem spacedEnough_iff (cfg : Config) (delta : Nat) : spacedEnough cfg delta = true ↔
    (cfg.filterStrict = false → cfg.filterWindow ≤ delta) ∧ (cfg.filterStrict = true → cfg.filterWindow < delta) := by
  cases hs : cfg.filterStrict <;> simp [spacedEnough, hs]

/-- An edge accepted after an earlier one is not before it, and far enough from it. -/
theorem AcceptsEdge.le_and_spacedEnough (h : AcceptsEdge c i b) (hl : c.blk.lastEdge = some l) (ht : b.lastEdge = some t) :
    l.toNat ≤ t.toNat ∧ spacedEnough c.cfg (t.toNat - l.toNat) = true := by
  obtain ⟨a, t', -, -, haccept, ht'⟩ := h
  obtain rfl : t' = t := Option.some.inj (ht'.symm.trans ht)
  exact (filterAccept_ok_true_iff c.cfg t' c.blk.lastEdge).1 haccept l hl

/-- Only an accepted edge or a load moves `lastEdge` from one time to another. -/
theorem EventWrites.acceptsEdge_of_lastEdge_moves (h : EventWrites c i b) (hload : ∀ bytes, i ≠ .deserialize bytes)
    (hl : c.blk.lastEdge = some l) (ht : b.lastEdge = some t) (hne : t ≠ l) : AcceptsEdge c i b := by
  rcases h.lastEdge_cases with hkeep | hedge | ⟨hclear, -⟩ | ⟨bytes, hi⟩
  · exact absurd (Option.some.inj (ht.symm.trans (hkeep.trans hl))) hne
  · exact hedge
  · cases hclear.symm.trans ht
  · exact absurd hi (hload bytes)

end window

end Sys2Proof.Machine
end

section
/-! PROOFS. The statements of 10_state.md. -/

namespace Sys2Proof.Proofs

open Sys2Proof.Machine

/-- Settles O48: every operation keeps the block in range, and no event changes the configuration of a block. -/
theorem stepKeepsTheStateLegal : Obligations.StepKeepsTheStateLegal := by
  unfold Obligations.StepKeepsTheStateLegal
  intro s s' hs h
  exact step_inv hs h

/-- Settles O22, one field after another, from the block that each event leaves. -/
theorem eachFieldHasOnlyItsWriters : Obligations.EachFieldHasOnlyItsWriters := by
  unfold Obligations.EachFieldHasOnlyItsWriters
  intro i s s' c c' hc hexec hc'
  obtain ⟨-, b, hw, hchip⟩ := exec_next_built hc hexec
  obtain rfl : c' = ⟨c.cfg, b⟩ := Option.some.inj (hc'.symm.trans hchip)
  exact ⟨hw.count_writers, hw.reload_writers, hw.enabled_writers, hw.bank_writers, hw.lastEdge_writers,
    hw.a12Prev_writers⟩

/-- Settles O23: such a move is an accepted edge, and the filter has compared its time with the earlier one. -/
theorem acceptedEdgesAreAWindowApart : Obligations.AcceptedEdgesAreAWindowApart := by
  unfold Obligations.AcceptedEdgesAreAWindowApart
  intro i s s' c c' l t hc hexec hc' hload hl ht hne
  obtain ⟨-, b, hw, hchip⟩ := exec_next_built hc hexec
  obtain rfl : c' = ⟨c.cfg, b⟩ := Option.some.inj (hc'.symm.trans hchip)
  have hedge : AcceptsEdge c i b := hw.acceptsEdge_of_lastEdge_moves hload hl ht hne
  obtain ⟨hle, hspaced⟩ := hedge.le_and_spacedEnough hl ht
  obtain ⟨hwindow, hstrict⟩ := (spacedEnough_iff c.cfg _).1 hspaced
  refine ⟨?loose, ?strict⟩
  case loose =>
    intro hs
    have hdelta := hwindow hs
    omega
  case strict =>
    intro hs
    have hdelta := hstrict hs
    omega

/-- Settles O43: the reset state's chip is the hard reset of any block in REF, CONSTRUCT's fresh block among them. -/
theorem resetStateIsTheHardResetOfRef : Obligations.ResetStateIsTheHardResetOfRef := by
  unfold Obligations.ResetStateIsTheHardResetOfRef
  refine ⟨?resetHard, ?construct⟩
  case resetHard =>
    intro s b hc
    rw [exec_resetHard_built hc, update, ← reset_chip b]
    rfl
  case construct =>
    rw [exec_construct_of_acceptable rfl ((Config.valid_iff _).1 Config.ref_valid), freshBlock, ← reset_chip]
    rfl

/-- Settles O49: the power-on block is in range, and without a block there is nothing to be in range. -/
theorem initialStatesAreLegal : Obligations.InitialStatesAreLegal := by
  unfold Obligations.InitialStatesAreLegal
  exact ⟨reset_inv, inv_unbuilt rfl⟩

end Sys2Proof.Proofs
end

section
/-! PROOFS. How a run goes from one event to the next, and what the same event at once again does (20_memory.md R52). -/

namespace Sys2Proof.Machine

section run
variable {s s' : State} {i : Instr}

/-- A run goes on from the state its first event leaves. -/
theorem runEvents_cons_of_next (rest : List Instr) (h : exec i s = .next s') :
    runEvents (i :: rest) s = runEvents rest s' := by
  simp [runEvents, h]

/-- A run of one event is that event. -/
theorem runEvents_singleton (i : Instr) (s : State) : runEvents [i] s = exec i s := by
  cases h : exec i s <;> simp [runEvents, h]

/-- A run whose first event faults ends there. -/
theorem runEvents_cons_of_fault {f : Fault} (rest : List Instr) (h : exec i s = .fault f) :
    runEvents (i :: rest) s = .fault f := by
  simp [runEvents, h]

/-- A run whose first event is refused ends there. -/
theorem runEvents_cons_of_refused {r : Refusal} (rest : List Instr) (h : exec i s = .refused r) :
    runEvents (i :: rest) s = .refused r := by
  simp [runEvents, h]

/-- An event that leaves alone every state it has just led to is the same done twice as once; one that stops never
comes to its second turn. -/
theorem runEvents_twice (hagain : ∀ s', exec i s = .next s' → exec i s' = .next s') :
    runEvents [i, i] s = runEvents [i] s := by
  cases h : exec i s with
  | next s' => rw [runEvents_cons_of_next _ h, runEvents_singleton, runEvents_singleton, hagain s' h, h]
  | fault f => rw [runEvents_cons_of_fault _ h, runEvents_cons_of_fault _ h]
  | refused r => rw [runEvents_cons_of_refused _ h, runEvents_cons_of_refused _ h]

end run

section blockAgain
variable (cfg : Config) (b : Block)

theorem writeBank_again (i : Nat) (v : Byte) : writeBank (writeBank b i v) i v = writeBank b i v := by
  simp [writeBank, List.set_set]

/-- The reload write reads the block for the count that Deferred keeps, and nothing else. -/
theorem writeReload_again (d : Byte) : writeReload cfg (writeReload cfg b d) d = writeReload cfg b d := by
  cases hp : cfg.reloadWritePolicy <;> simp [writeReload_eq, hp]

theorem hardReset_again : hardReset cfg (hardReset cfg b) = hardReset cfg b := by
  rw [hardReset_eq, hardReset_eq]

theorem softReset_again : softReset cfg (softReset cfg b) = softReset cfg b := by
  simp [softReset_eq]

end blockAgain

section eventAgain
variable {s s' : State} {i : Instr}

/-- An event that writes a block, done at once again: it is enough that its block function `f`, applied to the block
it wrote, gives that block. -/
theorem update_again (f : Chip → Block) (hf : ∀ c, f ⟨c.cfg, f c⟩ = f c)
    (h : onChip s (fun c => update s c (f c)) = .next s') : onChip s' (fun c => update s' c (f c)) = .next s' := by
  obtain ⟨c, -, hupdate⟩ := onChip_next h
  cases hupdate
  rw [onChip_built _ rfl, update, hf]

/-- An event that reads only, done at once again: it finds the chip it found, and gives the same answer. -/
theorem answer_again {r : Chip → Response}
    (h : onChip s (fun c => answer s (r c)) = .next s') : onChip s' (fun c => answer s' (r c)) = .next s' := by
  obtain ⟨c, hc, hanswer⟩ := onChip_next h
  cases hanswer
  have hc' : State.chip { s with resp := r c } = some c := hc
  rw [onChip_built _ hc', answer]

/-- Whether a record is valid, and the block it describes, depend on the record and the configuration alone
(44_save_state.md R203, R205). -/
theorem execDeserialize_again {l : List Byte} (h : execDeserialize l s = .next s') :
    execDeserialize l s' = .next s' := by
  obtain ⟨c, hc, hload⟩ := onChip_next h
  cases hv : recordValid c.cfg l with
  | true =>
    rw [if_pos hv] at hload
    cases hload
    rw [execDeserialize, onChip_built _ rfl, if_pos hv, update]
  | false =>
    rw [if_neg (by simp [hv])] at hload
    cases hload
    have hc' : State.chip { s with resp := .err .loadFailure } = some c := hc
    rw [execDeserialize, onChip_built _ hc', if_neg (by simp [hv]), report]

/-- Every event but PPU_ADDR and CONSTRUCT leaves alone the state it has just led to (20_memory.md R52). -/
theorem exec_again (hppu : ∀ a t, i ≠ .ppuAddr a t) (hconstruct : ∀ cfg, i ≠ .construct cfg)
    (h : exec i s = .next s') : exec i s' = .next s' := by
  cases i with
  | bankSelect k a d => exact update_again _ (fun c => writeBank_again c.blk k (bankOfData c.cfg d)) h
  | irqReloadValue a d => exact update_again _ (fun c => writeReload_again c.cfg c.blk d) h
  | irqLatch a d => exact update_again (fun c => { c.blk with count := 0 }) (fun _ => rfl) h
  | irqEnable a d => exact update_again (fun c => setEnabled c.blk (enableOfData d)) (fun _ => rfl) h
  | irqAck a d => exact update_again (fun c => clearPending c.blk) (fun _ => rfl) h
  | unmappedWrite a d => exact update_again Chip.blk (fun _ => rfl) h
  | ppuAddr a t => exact absurd rfl (hppu a t)
  | irqPoll => exact answer_again h
  | queryBank r a => exact answer_again h
  | resetHard => exact update_again _ (fun c => hardReset_again c.cfg c.blk) h
  | resetSoft => exact update_again _ (fun c => softReset_again c.cfg c.blk) h
  | serialize => exact answer_again h
  | deserialize l => exact execDeserialize_again h
  | peekBank k => exact answer_again h
  | peekCount => exact answer_again h
  | construct cfg => exact absurd rfl (hconstruct cfg)

end eventAgain

end Sys2Proof.Machine
end

section
/-! PROOFS. The bank write and the bank query on a block that exists (42_register_writes.md R150, 43_bus_queries.md R183). -/

namespace Sys2Proof.Machine

section bankEvents
variable {s : State} {c : Chip} {i : Nat} {r : Region} {q : Addr16}

theorem exec_bankSelect_built (hc : s.chip = some c) (i : Nat) (a : Addr16) (d : Byte) :
    exec (.bankSelect i a d) s = update s c (writeBank c.blk i (bankOfData c.cfg d)) :=
  onChip_built _ hc

theorem exec_queryBank_built (hc : s.chip = some c) (r : Region) (q : Addr16) :
    exec (.queryBank r q) s = answer s (.bank (queriedBank c r q)) :=
  onChip_built _ hc

theorem queriedBank_of_lookup {cfg : Config} (b : Block) (h : cfg.bankIndex.lookup r q = some i) :
    queriedBank ⟨cfg, b⟩ r q = readBank b i := by
  simp [queriedBank, h]

/-- In a legal state `BANK_INDEX` selects only bank registers that exist (00_scope.md R9, 10_state.md R22). -/
theorem queried_index_lt (hc : s.chip = some c) (hs : s.Inv) (h : c.cfg.bankIndex.lookup r q = some i) :
    i < c.blk.banks.length := by
  obtain ⟨hvalid, hrange⟩ := (inv_built_iff hc).1 hs
  rw [hrange.banks_length]
  exact ((Config.valid_iff c.cfg).1 hvalid).query_indices r q i h

/-- The bank write and then the query: the query sees the block that the write left. -/
theorem runEvents_bankSelect_queryBank (hc : s.chip = some c) (i : Nat) (a : Addr16) (d : Byte) (r : Region)
    (q : Addr16) : runEvents [.bankSelect i a d, .queryBank r q] s =
      .next { s with
        chip := some ⟨c.cfg, writeBank c.blk i (bankOfData c.cfg d)⟩
        resp := .bank (queriedBank ⟨c.cfg, writeBank c.blk i (bankOfData c.cfg d)⟩ r q) } := by
  rw [runEvents_cons_of_next _ (exec_bankSelect_built hc i a d), runEvents_singleton]
  exact exec_queryBank_built rfl r q

end bankEvents

end Sys2Proof.Machine
end

section
/-! PROOFS. The statements of 20_memory.md. -/

namespace Sys2Proof.Proofs

open Sys2Proof.Machine

/-- Settles O34: the query reads the register just written. That it exists follows from `BANK_INDEX` alone, so the
hypothesis on `DECODE` is not used. -/
theorem bankSelectIsSeenByTheNextQuery : Obligations.BankSelectIsSeenByTheNextQuery := by
  unfold Obligations.BankSelectIsSeenByTheNextQuery
  intro s c i a q d r hc hs _ hquery
  have hi : i < c.blk.banks.length := queried_index_lt hc hs hquery
  have hread : queriedBank ⟨c.cfg, writeBank c.blk i (bankOfData c.cfg d)⟩ r q = some (bankOfData c.cfg d) := by
    rw [queriedBank_of_lookup _ hquery, readBank_writeBank_self c.blk i _ hi]
  exact ⟨_, runEvents_bankSelect_queryBank hc i a d r q, congrArg Response.bank hread⟩

/-- Settles O46: such an event, done at once again, leaves alone the state it has just led to. -/
theorem eventsButPpuAddrAreIdempotent : Obligations.EventsButPpuAddrAreIdempotent := by
  unfold Obligations.EventsButPpuAddrAreIdempotent
  intro i s hppu hconstruct
  exact runEvents_twice fun _ h => exec_again hppu hconstruct h

end Sys2Proof.Proofs
end

section
/-! PROOFS. Records and events: what each record spells, and which record spells an event (30_encoding.md R70 to R73). -/

namespace Sys2Proof

section fields

/-- A number of `n + m` bits is put together again from its two fields. -/
theorem bitField_join {n m v : Nat} (hv : v < 2 ^ (n + m)) :
    (bitField v m n).toNat * 2 ^ m + (bitField v 0 m).toNat = v := by
  have hhigh : v / 2 ^ m < 2 ^ n := Nat.div_lt_of_lt_mul (by rwa [← Nat.pow_add, Nat.add_comm])
  simp only [bitField, BitVec.toNat_ofNat, Nat.mod_eq_of_lt hhigh, Nat.pow_zero, Nat.div_one]
  exact Nat.div_add_mod' v (2 ^ m)

/-- The bit of a region spells it. -/
theorem regionOfBit_testBit (r : Region) : regionOfBit (r.bit.testBit 0) = r := by
  cases r <;> rfl

theorem regionOfBit_bit (b : Bool) : (regionOfBit b).bit = b.toNat := by
  cases b <;> rfl

end fields

section writes
variable {dec : AddrMap RegOp} {op : RegOp} {a : Addr16} {d : Byte}

/-- The record of a CPU write does not name the operation (R71). -/
@[simp] theorem encode_writeInstr (op : RegOp) (a : Addr16) (d : Byte) : encode (writeInstr op a d) = writeRecord a d := by
  cases op <;> rfl

/-- A register operation is well formed at the addresses that select it (R74). -/
theorem writeInstr_wf_iff : (writeInstr op a d).wf dec = true ↔ dec.lookup a = op := by
  cases op <;> exact decide_eq_true_iff

theorem decode_encode_writeInstr (h : (writeInstr op a d).wf dec = true) :
    decode dec (encode (writeInstr op a d)) = .ok (writeInstr op a d) := by
  rw [encode_writeInstr, decode_writeRecord, writeInstr_wf_iff.1 h]

end writes

/-- The PPU_ADDR record decodes to its address and time (R72). -/
theorem decode_encode_ppuAddr (dec : AddrMap RegOp) (a : Addr16) (t : Time) :
    decode dec (encode (.ppuAddr a t)) = .ok (.ppuAddr a t) := by
  have hlt : a.toNat * 2 ^ 64 + t.toNat < 2 ^ 80 := fields_lt a t
  have ha : bitField (a.toNat * 2 ^ 64 + t.toNat) 64 16 = a := bitField_high a t
  have ht : bitField (a.toNat * 2 ^ 64 + t.toNat) 0 64 = t := bitField_low a t
  show decodePpuAddr (a.toNat * 2 ^ 64 + t.toNat) = _
  rw [decodePpuAddr, if_pos hlt, ha, ht]

/-- The QUERY_BANK record decodes to its region and address (R73). -/
theorem decode_encode_queryBank (dec : AddrMap RegOp) (r : Region) (a : Addr16) :
    decode dec (encode (.queryBank r a)) = .ok (.queryBank r a) := by
  have hlt : r.bit * 2 ^ 16 + a.toNat < 2 ^ 17 := by
    cases r with
    | prg => exact fields_lt 0#1 a
    | chr => exact fields_lt 1#1 a
  have hr : (r.bit * 2 ^ 16 + a.toNat).testBit 16 = r.bit.testBit 0 := by
    rw [Nat.mul_comm, Nat.testBit_two_pow_mul_add _ a.isLt]
    simp
  have ha : bitField (r.bit * 2 ^ 16 + a.toNat) 0 16 = a := by
    cases r with
    | prg => exact bitField_low 0#1 a
    | chr => exact bitField_low 1#1 a
  show decodeQueryBank (r.bit * 2 ^ 16 + a.toNat) = _
  rw [decodeQueryBank, if_pos hlt, hr, regionOfBit_testBit, ha]

/-- The record of a well-formed event spells that event: a CPU write by the operation its address selects, every other
event by the fields of its own record. -/
theorem decode_encode {dec : AddrMap RegOp} {i : Instr} (h : i.wf dec = true) : decode dec (encode i) = .ok i := by
  cases i with
  | bankSelect k a d => exact decode_encode_writeInstr (op := .bankSelect k) h
  | irqReloadValue a d => exact decode_encode_writeInstr (op := .irqReloadValue) h
  | irqLatch a d => exact decode_encode_writeInstr (op := .irqLatch) h
  | irqEnable a d => exact decode_encode_writeInstr (op := .irqEnable) h
  | irqAck a d => exact decode_encode_writeInstr (op := .irqAck) h
  | unmappedWrite a d => exact decode_encode_writeInstr (op := .unmapped) h
  | ppuAddr a t => exact decode_encode_ppuAddr dec a t
  | queryBank r a => exact decode_encode_queryBank dec r a
  | _ => rfl

/-- The tag of an event kind (R70). -/
def EventKind.tag : EventKind → Tag
  | .cpuWrite => 0x0
  | .ppuAddr => 0x1
  | .irqPoll => 0x2
  | .queryBank => 0x3
  | .resetHard => 0x4
  | .resetSoft => 0x5
  | .serialize => 0x6
  | .deserialize => 0x7
  | .peekBank => 0x8
  | .peekCount => 0x9
  | .construct => 0xA

/-- Each event kind has one tag (R70). -/
theorem kindOfTag_eq_some_iff {tag : Tag} {kind : EventKind} : kindOfTag tag = some kind ↔ tag = kind.tag := by
  cases kind <;> revert tag <;> decide

/-- The tags that R70 leaves out. -/
theorem kindOfTag_eq_none_iff {tag : Tag} : kindOfTag tag = none ↔ 0xB ≤ tag.toNat := by
  revert tag
  decide

/-- What reading `payload` as an event of `kind` may answer: a well-formed event whose record carries that tag and that
payload, or that the record is malformed. -/
def ReadAs (dec : AddrMap RegOp) (kind : EventKind) (payload : Payload) : Except DecodeError Instr → Prop
  | .ok i => encode i = ⟨kind.tag, payload⟩ ∧ i.wf dec = true
  | .error e => e = .malformedRecord

section readAs
variable (dec : AddrMap RegOp) (v : Nat)

theorem decodeCpuWrite_readAs : ReadAs dec .cpuWrite (.word v) (decodeCpuWrite dec v) := by
  unfold decodeCpuWrite
  split
  · next hv =>
    have hjoin : (bitField v 8 16).toNat * 2 ^ 8 + (bitField v 0 8).toNat = v := bitField_join hv
    refine ⟨?record, writeInstr_wf_iff.2 rfl⟩
    rw [encode_writeInstr, writeRecord, hjoin, EventKind.tag]
  · rfl

theorem decodePpuAddr_readAs : ReadAs dec .ppuAddr (.word v) (decodePpuAddr v) := by
  unfold decodePpuAddr
  split
  · next hv =>
    have hjoin : (bitField v 64 16).toNat * 2 ^ 64 + (bitField v 0 64).toNat = v := bitField_join hv
    refine ⟨?record, rfl⟩
    rw [encode, hjoin, EventKind.tag]
  · rfl

theorem decodeQueryBank_readAs : ReadAs dec .queryBank (.word v) (decodeQueryBank v) := by
  unfold decodeQueryBank
  split
  · next hv =>
    have hregion : (regionOfBit (v.testBit 16)).bit = (bitField v 16 1).toNat := by
      rw [regionOfBit_bit, Nat.toNat_testBit, bitField, BitVec.toNat_ofNat]
    have hjoin : (bitField v 16 1).toNat * 2 ^ 16 + (bitField v 0 16).toNat = v := bitField_join hv
    refine ⟨?record, rfl⟩
    rw [encode, hregion, hjoin, EventKind.tag]
  · rfl

/-- The three kinds whose record is a number read its fields; the others carry their operands as they are. -/
theorem decodePayload_readAs (kind : EventKind) (payload : Payload) :
    ReadAs dec kind payload (decodePayload dec kind payload) := by
  unfold decodePayload
  split
  case h_1 v => exact decodeCpuWrite_readAs dec v
  case h_2 v => exact decodePpuAddr_readAs dec v
  case h_4 v => exact decodeQueryBank_readAs dec v
  case h_12 => rfl
  all_goals exact ⟨rfl, rfl⟩

end readAs

section decode
variable {dec : AddrMap RegOp} {r : Record} {i : Instr}

theorem decode_of_kind {kind : EventKind} (h : kindOfTag r.tag = some kind) :
    decode dec r = decodePayload dec kind r.payload := by
  simp [decode, h]

theorem decode_of_no_kind (h : kindOfTag r.tag = none) : decode dec r = .error .unknownEvent := by
  simp [decode, h]

/-- A record that spells an event is that event's record. -/
theorem encode_of_decode (h : decode dec r = .ok i) : encode i = r ∧ i.wf dec = true := by
  cases hk : kindOfTag r.tag with
  | none => cases (decode_of_no_kind hk).symm.trans h
  | some kind =>
    have hread := decodePayload_readAs dec kind r.payload
    rw [← decode_of_kind hk, h] at hread
    obtain ⟨hrecord, hwf⟩ := hread
    rw [hrecord, ← kindOfTag_eq_some_iff.1 hk]
    exact ⟨rfl, hwf⟩

/-- The tag alone makes a record an unknown event; a payload of the wrong form is malformed (R70, R78). -/
theorem decode_eq_unknownEvent_iff : decode dec r = .error .unknownEvent ↔ 0xB ≤ r.tag.toNat := by
  rw [← kindOfTag_eq_none_iff]
  refine ⟨fun h => ?noKind, decode_of_no_kind⟩
  cases hk : kindOfTag r.tag with
  | none => rfl
  | some kind =>
    have hread := decodePayload_readAs dec kind r.payload
    rw [← decode_of_kind hk, h] at hread
    cases hread

end decode

end Sys2Proof
end

section
/-! PROOFS. The address maps: `decodeRef` in the words of 30_encoding.md R74, and a map for every function of the
address. -/

namespace Sys2Proof

section tabulate
variable {α : Type}

/-- The map that tests the lowest `n` address bits, the highest of them first, and answers `f` of them. -/
def AddrMap.tabulate : (n : Nat) → n ≤ 16 → (BitVec n → α) → AddrMap α
  | 0, _, f => .leaf (f 0#0)
  | n + 1, h, f =>
    .test ⟨n, h⟩ (tabulate n (Nat.le_of_succ_le h) fun x => f (BitVec.cons false x))
      (tabulate n (Nat.le_of_succ_le h) fun x => f (BitVec.cons true x))

theorem AddrMap.lookup_tabulate (n : Nat) (h : n ≤ 16) (f : BitVec n → α) (a : Addr16) :
    (tabulate n h f).lookup a = f (a.setWidth n) := by
  induction n with
  | zero => exact congrArg f (Subsingleton.elim _ _)
  | succ n ih =>
    rw [tabulate, lookup, BitVec.setWidth_succ]
    cases hbit : a.getLsbD n with
    | false => exact ih _ _
    | true => exact ih _ _

/-- Every function of the address is some map's. -/
theorem AddrMap.exists_lookup_eq (f : Addr16 → α) : ∃ m : AddrMap α, ∀ a, m.lookup a = f a := by
  refine ⟨tabulate 16 (Nat.le_refl 16) f, fun a => ?_⟩
  rw [lookup_tabulate, BitVec.setWidth_eq]

end tabulate

section decodeRef
variable {a a' : Addr16}

/-- The address made of the two fields that `decodeRef` reads, with zero bits between them. -/
def addressOfFields (page : BitVec 4) (low : BitVec 3) : Addr16 :=
  page ++ 0#9 ++ low

/-- `decodeRef` reads a[15:12] and a[2:0] alone. -/
theorem lookup_decodeRef_fields (a : Addr16) :
    decodeRef.lookup a = decodeRef.lookup (addressOfFields (a.extractLsb' 12 4) (a.extractLsb' 0 3)) := by
  simp only [decodeRef, decodeRefBankPage, decodeRefIrqPage, AddrMap.four, AddrMap.lookup, addressOfFields,
    BitVec.getLsbD_append, BitVec.getLsbD_extractLsb']
  simp

/-- The two bits that choose an IRQ operation are the low ones of the three that choose a bank. -/
theorem extractLsb'_two_of_three (a : Addr16) : a.extractLsb' 0 2 = (a.extractLsb' 0 3).setWidth 2 := by
  apply BitVec.eq_of_getLsbD_eq
  intro k hk
  have hk3 : k < 3 := by omega
  simp [hk, hk3]

/-- `decodeRef` in the words of R74, for each page and each three low bits. -/
theorem lookup_decodeRef (a : Addr16) : decodeRef.lookup a =
    if a.extractLsb' 12 4 = 0x8 then .bankSelect (a.extractLsb' 0 3).toNat
    else if a.extractLsb' 12 4 = 0xF then
      if a.extractLsb' 0 2 = 0b00 then .irqReloadValue
      else if a.extractLsb' 0 2 = 0b01 then .irqLatch
      else if a.extractLsb' 0 2 = 0b10 then .irqEnable
      else .irqAck
    else .unmapped := by
  rw [lookup_decodeRef_fields, extractLsb'_two_of_three]
  generalize a.extractLsb' 12 4 = page
  generalize a.extractLsb' 0 3 = low
  revert page low
  decide

/-- Two addresses that agree in the page and in the low bits which that page reads select one operation (R77). -/
theorem lookup_decodeRef_congr (hpage : a.extractLsb' 12 4 = a'.extractLsb' 12 4)
    (hbank : a.extractLsb' 12 4 = 0x8 → a.extractLsb' 0 3 = a'.extractLsb' 0 3)
    (hirq : a.extractLsb' 12 4 = 0xF → a.extractLsb' 0 2 = a'.extractLsb' 0 2) :
    decodeRef.lookup a = decodeRef.lookup a' := by
  rw [lookup_decodeRef, lookup_decodeRef, ← hpage]
  by_cases h8 : a.extractLsb' 12 4 = 0x8
  · rw [if_pos h8, if_pos h8, hbank h8]
  · rw [if_neg h8, if_neg h8]
    by_cases hF : a.extractLsb' 12 4 = 0xF
    · rw [if_pos hF, if_pos hF, hirq hF]
    · rw [if_neg hF, if_neg hF]

end decodeRef

end Sys2Proof
end

section
/-! PROOFS. What a CPU write does to a block, whatever its `DECODE` (42_register_writes.md R149), what PPU_ADDR reads
(30_encoding.md R72), and which faults an event can raise (60_exceptions.md R225). -/

namespace Sys2Proof.Machine

section writes
variable {s : State} {c : Chip} {op : RegOp} {a : Addr16} {d d' : Byte} {rest : List Record}

/-- The block that the register operation `op` leaves when it is written with data `d`. -/
def writtenBlock (c : Chip) (op : RegOp) (d : Byte) : Block :=
  match op with
  | .bankSelect i => writeBank c.blk i (bankOfData c.cfg d)
  | .irqReloadValue => writeReload c.cfg c.blk d
  | .irqLatch => { c.blk with count := 0 }
  | .irqEnable => setEnabled c.blk (enableOfData d)
  | .irqAck => clearPending c.blk
  | .unmapped => c.blk

theorem exec_writeInstr_built (hc : s.chip = some c) (op : RegOp) (a : Addr16) (d : Byte) :
    exec (writeInstr op a d) s = update s c (writtenBlock c op d) := by
  cases op <;> exact onChip_built _ hc

/-- A step on a CPU write runs the operation that the block's own `DECODE` selects, and always goes on. -/
theorem step_writeRecord_built (hc : s.chip = some c) (hinbox : s.inbox = writeRecord a d :: rest) :
    step s = update { s with inbox := rest } c (writtenBlock c (c.cfg.decode.lookup a) d) := by
  have hmap : s.decodeMap = c.cfg.decode := by simp [State.decodeMap, hc]
  have hc' : State.chip { s with inbox := rest } = some c := hc
  rw [step_of_decode_ok hinbox (decode_writeRecord _ a d), hmap, exec_writeInstr_built hc']

theorem bankOfData_congr {cfg : Config} (h : d.toNat % 2 ^ cfg.bankWidth = d'.toNat % 2 ^ cfg.bankWidth) :
    bankOfData cfg d = bankOfData cfg d' :=
  congrArg (BitVec.ofNat 8) h

theorem countOfData_congr {cfg : Config} (h : d.toNat % 2 ^ cfg.counterWidth = d'.toNat % 2 ^ cfg.counterWidth) :
    countOfData cfg d = countOfData cfg d' :=
  congrArg (BitVec.ofNat 8) h

theorem writeReload_congr {cfg : Config} (b : Block) (h : countOfData cfg d = countOfData cfg d') :
    writeReload cfg b d = writeReload cfg b d' := by
  rw [writeReload_eq, writeReload_eq, h]

end writes

section ppuAddr
variable {a a' : Addr16}

/-- PPU_ADDR reads the A12 line of its address alone. -/
theorem observeAddress_congr (cfg : Config) (b : Block) (t : Time) (h : a12 a = a12 a') :
    observeAddress cfg b a t = observeAddress cfg b a' t := by
  rw [observeAddress, observeAddress, rising, rising, h]

theorem exec_ppuAddr_congr (s : State) (t : Time) (h : a12 a = a12 a') :
    exec (.ppuAddr a t) s = exec (.ppuAddr a' t) s := by
  show execPpuAddr a t s = execPpuAddr a' t s
  simp only [execPpuAddr, observeAddress_congr _ _ t h]

end ppuAddr

section faults
variable {s : State} {c : Chip} {i : Instr} {f : Fault}

theorem observeAddress_error {cfg : Config} {b : Block} {a : Addr16} {t : Time}
    (h : observeAddress cfg b a t = .error f) : f = .timeRegression := by
  rcases observeAddress_cases cfg b a t with ⟨-, h'⟩ | ⟨-, _, -, -, h'⟩ | ⟨-, _, -, -, -, h'⟩ | ⟨-, -, h'⟩ <;>
    cases h.symm.trans h'
  rfl

/-- An event without a block raises one fault (70_reset_and_hazards.md R251); CONSTRUCT raises none there. -/
theorem exec_fault_unbuilt (hc : s.chip = none) (h : exec i s = .fault f) : f = .notConstructed := by
  cases i with
  | construct cfg =>
    replace h := (execConstruct_unbuilt cfg hc).symm.trans h
    split at h <;> cases h
  | _ =>
    cases (onChip_unbuilt _ hc).symm.trans h
    rfl

/-- On a block that exists only PPU_ADDR and CONSTRUCT raise a fault, each its own (40_a12_filter.md R104,
70_reset_and_hazards.md R250). -/
theorem exec_fault_built (hc : s.chip = some c) (h : exec i s = .fault f) :
    f = .timeRegression ∨ f = .alreadyConstructed := by
  cases i with
  | ppuAddr a t =>
    replace h := (onChip_built _ hc).symm.trans h
    split at h
    · next hobs =>
      cases h
      exact .inl (observeAddress_error hobs)
    · cases h
  | construct cfg =>
    cases (execConstruct_built cfg hc).symm.trans h
    exact .inr rfl
  | deserialize l =>
    replace h := (onChip_built _ hc).symm.trans h
    split at h <;> cases h
  | _ => cases (onChip_built _ hc).symm.trans h

/-- An event that decodes is never unknown (60_exceptions.md R225). -/
theorem exec_ne_unknownEvent (i : Instr) (s : State) : exec i s ≠ .fault .unknownEvent := by
  intro h
  cases hc : s.chip with
  | none => cases exec_fault_unbuilt hc h
  | some c => rcases exec_fault_built hc h with hf | hf <;> cases hf

/-- A step raises UnknownEvent for the record alone: the record is decoded to that error, whatever the block. -/
theorem step_eq_unknownEvent_iff {r : Record} {rest : List Record} (hinbox : s.inbox = r :: rest) :
    step s = .fault .unknownEvent ↔ decode s.decodeMap r = .error .unknownEvent := by
  cases hd : decode s.decodeMap r with
  | ok i => simp [step_of_decode_ok hinbox hd, exec_ne_unknownEvent]
  | error e => cases e <;> simp [step_of_decode_error hinbox hd, rejectRecord]

end faults

end Sys2Proof.Machine
end

section
/-! PROOFS. The statements of 30_encoding.md. -/

namespace Sys2Proof.Proofs

open Sys2Proof.Machine

/-- Settles O2: a CPU write is spelled by its address and data, and the address selects the operation of a well-formed
one; the fields of every other record are the event's operands. -/
theorem encodedEventDecodesToItself : Obligations.EncodedEventDecodesToItself := by
  unfold Obligations.EncodedEventDecodesToItself
  intro dec i hwf
  exact decode_encode hwf

/-- Settles O3: the tag names the event's kind, and the payload is put together again from its fields. -/
theorem decodedRecordIsTheEventsRecord : Obligations.DecodedRecordIsTheEventsRecord := by
  unfold Obligations.DecodedRecordIsTheEventsRecord
  intro dec r i hdecode
  exact encode_of_decode hdecode

/-- Settles O4: no event raises UnknownEvent, and the decoder answers it for the tag alone. -/
theorem unusedTagsSpellNoEvent : Obligations.UnusedTagsSpellNoEvent := by
  unfold Obligations.UnusedTagsSpellNoEvent
  intro s r rest hinbox
  rw [step_eq_unknownEvent_iff hinbox, decode_eq_unknownEvent_iff]

/-- Settles O5: REF is acceptable, so its indices are legal, and a map that tests every address bit can answer
anything. -/
theorem decodeRefFollowsThePageAndLowBits : Obligations.DecodeRefFollowsThePageAndLowBits := by
  unfold Obligations.DecodeRefFollowsThePageAndLowBits
  refine ⟨lookup_decodeRef, ?indices, rfl, AddrMap.exists_lookup_eq⟩
  case indices =>
    exact ((Config.valid_iff Config.ref).1 Config.ref_valid).decode_indices

/-- Settles O7: both writes run the operation their addresses select, and each operation reads only the data bits in
which they agree. -/
theorem refWritesIgnoreUnreadBits : Obligations.RefWritesIgnoreUnreadBits := by
  unfold Obligations.RefWritesIgnoreUnreadBits
  intro s c rest a a' d d' hc hdecode hpage hbank hirq hreload henable
  have hstep : ∀ a d, step { s with inbox := writeRecord a d :: rest } =
      update { s with inbox := rest } c (writtenBlock c (decodeRef.lookup a) d) := by
    intro a d
    rw [← hdecode]
    exact step_writeRecord_built hc rfl
  have haddress : decodeRef.lookup a = decodeRef.lookup a' :=
    lookup_decodeRef_congr hpage (fun h => (hbank h).1) hirq
  have hdata : writtenBlock c (decodeRef.lookup a) d = writtenBlock c (decodeRef.lookup a) d' := by
    rw [lookup_decodeRef]
    split_ifs with h8 hF h0 h1 h2
    · exact congrArg (writeBank c.blk _) (bankOfData_congr (hbank h8).2)
    · exact writeReload_congr c.blk (countOfData_congr (hreload hF h0))
    · rfl
    · exact congrArg (setEnabled c.blk) (henable hF h2)
    · rfl
    · rfl
  refine ⟨⟨_, hstep a d⟩, ?same⟩
  case same =>
    rw [hstep, hstep, hdata, haddress]

/-- Settles O8: the record is the event's own, and the A12 line is bit 12 of the address. -/
theorem ppuAddrReadsOnlyA12AndTime : Obligations.PpuAddrReadsOnlyA12AndTime := by
  unfold Obligations.PpuAddrReadsOnlyA12AndTime
  refine ⟨decode_encode_ppuAddr, ?reads⟩
  case reads =>
    intro s a a' t hbit
    exact exec_ppuAddr_congr s t hbit

/-- Settles O1, by decoding each word. -/
theorem tableWordsDecodeToTheirRows : Obligations.TableWordsDecodeToTheirRows := by
  unfold Obligations.TableWordsDecodeToTheirRows
  decide

end Sys2Proof.Proofs
end

section
/-! PROOFS. What PPU_ADDR does in each case of 40_a12_filter.md R101 to R104, and that the counter leaves the filter's fields
alone. -/

namespace Sys2Proof.Machine

section filterAccept
variable {cfg : Config} {l t : Time}

/-- No last edge: the first rising transition is accepted (40_a12_filter.md R102). -/
theorem filterAccept_none (cfg : Config) (t : Time) : filterAccept cfg none t = .ok true := rfl

/-- A time below the last edge breaks the contract (40_a12_filter.md R104). -/
theorem filterAccept_of_lt (h : t.toNat < l.toNat) : filterAccept cfg (some l) t = .error .timeRegression :=
  if_pos h

theorem filterAccept_of_le (h : l.toNat ≤ t.toNat) :
    filterAccept cfg (some l) t = .ok (spacedEnough cfg (t.toNat - l.toNat)) :=
  if_neg (Nat.not_lt.2 h)

theorem spacedEnough_loose (hloose : cfg.filterStrict = false) (delta : Nat) :
    spacedEnough cfg delta = decide (cfg.filterWindow ≤ delta) := by
  simp [spacedEnough, hloose]

/-- The comparison that FILTER_STRICT selects, as one condition (40_a12_filter.md R102). -/
theorem spacedEnough_iff_ite (cfg : Config) (delta : Nat) : spacedEnough cfg delta = true ↔
    if cfg.filterStrict = true then cfg.filterWindow < delta else cfg.filterWindow ≤ delta := by
  cases hs : cfg.filterStrict <;> simp [spacedEnough, hs]

end filterAccept

section observeAddress
variable {cfg : Config} {b : Block} {a : Addr16} {t : Time}

theorem rising_iff : rising b a = true ↔ b.a12Prev = false ∧ a12 a = true := by
  simp [rising]

theorem observeAddress_of_not_rising (hr : ¬rising b a = true) :
    observeAddress cfg b a t = .ok { b with a12Prev := a12 a } :=
  if_neg hr

theorem observeAddress_of_accept (hr : rising b a = true) (hf : filterAccept cfg b.lastEdge t = .ok true) :
    observeAddress cfg b a t = .ok (commitEdge cfg { b with a12Prev := true } t) := by
  simp [observeAddress, hr, hf, (rising_iff.1 hr).2]

theorem observeAddress_of_reject (hr : rising b a = true) (hf : filterAccept cfg b.lastEdge t = .ok false) :
    observeAddress cfg b a t = .ok { b with a12Prev := true } := by
  simp [observeAddress, hr, hf, (rising_iff.1 hr).2]

theorem observeAddress_of_fault {f : Fault} (hr : rising b a = true) (hf : filterAccept cfg b.lastEdge t = .error f) :
    observeAddress cfg b a t = .error f := by
  simp [observeAddress, hr, hf]

end observeAddress

section exec
variable {s : State} {c : Chip} {a : Addr16} {t : Time}

theorem exec_ppuAddr_of_ok {b : Block} (hc : s.chip = some c) (h : observeAddress c.cfg c.blk a t = .ok b) :
    exec (.ppuAddr a t) s = update s c b :=
  (onChip_built _ hc).trans (by rw [h])

theorem exec_ppuAddr_of_error {f : Fault} (hc : s.chip = some c) (h : observeAddress c.cfg c.blk a t = .error f) :
    exec (.ppuAddr a t) s = .fault f :=
  (onChip_built _ hc).trans (by rw [h])

/-- A rising transition and, at the same time, the fall after it: the filter sees the first alone. -/
theorem runEvents_rise_fall {b : Block} {high low : Addr16} (hc : s.chip = some c) (hlow : a12 low = false)
    (h : observeAddress c.cfg c.blk high t = .ok b) (rest : List Instr) :
    runEvents (.ppuAddr high t :: .ppuAddr low t :: rest) s =
      runEvents rest { s with chip := some ⟨c.cfg, { b with a12Prev := false }⟩, resp := .nothing } := by
  have hfall : observeAddress c.cfg b low t = .ok { b with a12Prev := false } := by
    rw [observeAddress_of_not_rising (by simp [rising_iff, hlow]), hlow]
  rw [runEvents_cons_of_next _ (exec_ppuAddr_of_ok hc h), runEvents_cons_of_next _ (exec_ppuAddr_of_ok rfl hfall)]

end exec

/-- The block with the filter's two fields, `lastEdge` and `a12Prev`, replaced. -/
def setFilter (b : Block) (last : Option Time) (level : Bool) : Block :=
  { b with lastEdge := last, a12Prev := level }

section setFilter
variable (cfg : Config) (b : Block) (last last' : Option Time) (level level' : Bool)

@[simp] theorem setFilter_lastEdge : (setFilter b last level).lastEdge = last := rfl
@[simp] theorem setFilter_a12Prev : (setFilter b last level).a12Prev = level := rfl
@[simp] theorem setFilter_setFilter : setFilter (setFilter b last level) last' level' = setFilter b last' level' := rfl
@[simp] theorem setFilter_self : setFilter b b.lastEdge b.a12Prev = b := rfl

/-- The counter neither reads nor writes the filter's fields (41_irq_counter.md R120). -/
theorem counterClock_setFilter :
    (counterClock cfg (setFilter b last level)).1 = setFilter (counterClock cfg b).1 last level := by
  have htriggers : triggers (setFilter b last level) (nextCount (setFilter b last level)) =
      triggers b (nextCount b) := rfl
  rw [counterClock, counterClock, htriggers]
  split <;> rfl

/-- What an accepted edge leaves, but for the level: one clean edge, and its time (40_a12_filter.md R103). -/
theorem commitEdge_level (t : Time) : { commitEdge cfg { b with a12Prev := level } t with a12Prev := level' } =
    setFilter (counterClock cfg b).1 (some t) level' := by
  have hclock : commitEdge cfg { b with a12Prev := level } t = setFilter (counterClock cfg b).1 (some t) level :=
    counterClock_setFilter cfg b (some t) level
  rw [hclock]
  rfl

end setFilter

end Sys2Proof.Machine
end

section
/-! PROOFS. The greedy choice of 40_a12_filter.md R106: what it picks, and the run of rising transitions that makes it. -/

namespace Sys2Proof

open Sys2Proof.Machine

/-- The filter window has passed since the last accepted edge, if there is one. -/
def WindowPassed (window : Nat) (last : Option Time) (t : Time) : Prop :=
  ∀ l, last = some l → l.toNat + window ≤ t.toNat

section greedy
variable {window : Nat} {last : Option Time} {t : Time}

theorem windowPassed_none : WindowPassed window none t := nofun

theorem windowPassed_some {l : Time} : WindowPassed window (some l) t ↔ l.toNat + window ≤ t.toNat := by
  simp [WindowPassed]

theorem greedyEdges_of_windowPassed (h : WindowPassed window last t) (rest : List Time) :
    greedyEdges window last (t :: rest) = t :: greedyEdges window (some t) rest := by
  cases last with
  | none => rfl
  | some l => exact if_pos (windowPassed_some.1 h)

theorem greedyEdges_of_not_windowPassed (h : ¬WindowPassed window last t) (rest : List Time) :
    greedyEdges window last (t :: rest) = greedyEdges window last rest := by
  cases last with
  | none => exact absurd windowPassed_none h
  | some l => exact if_neg fun hl => h (windowPassed_some.2 hl)

/-- The chosen edges are pairwise a window apart, and as far from the edge before them. -/
theorem greedyEdges_pairwise (window : Nat) (last : Option Time) (times : List Time) :
    (last.toList ++ greedyEdges window last times).Pairwise (fun x y => x.toNat + window ≤ y.toNat) := by
  induction times generalizing last with
  | nil => cases last <;> simp [greedyEdges]
  | cons t rest ih =>
    by_cases h : WindowPassed window last t
    · rw [greedyEdges_of_windowPassed h]
      have hlater := ih (some t)
      cases last with
      | none => exact hlater
      | some l =>
        have hl : l.toNat + window ≤ t.toNat := windowPassed_some.1 h
        refine List.pairwise_cons.2 ⟨?fromLast, hlater⟩
        case fromLast =>
          rintro y (_ | ⟨_, hy⟩)
          · exact hl
          · have hty : t.toNat + window ≤ y.toNat := List.rel_of_pairwise_cons hlater hy
            omega
    · rw [greedyEdges_of_not_windowPassed h]
      exact ih last

/-- With FILTER_STRICT false the filter accepts when the window has passed (40_a12_filter.md R102). -/
theorem filterAccept_of_windowPassed {cfg : Config} (hloose : cfg.filterStrict = false)
    (h : WindowPassed cfg.filterWindow last t) : filterAccept cfg last t = .ok true := by
  cases last with
  | none => exact filterAccept_none cfg t
  | some l =>
    have hl := windowPassed_some.1 h
    rw [filterAccept_of_le (by omega), spacedEnough_loose hloose, decide_eq_true (by omega)]

theorem filterAccept_of_not_windowPassed {cfg : Config} (hloose : cfg.filterStrict = false)
    (hle : ∀ l ∈ last.toList, l.toNat ≤ t.toNat) (h : ¬WindowPassed cfg.filterWindow last t) :
    filterAccept cfg last t = .ok false := by
  cases last with
  | none => exact absurd windowPassed_none h
  | some l =>
    have hl := mt windowPassed_some.2 h
    have hlt : l.toNat ≤ t.toNat := hle l (by simp)
    rw [filterAccept_of_le hlt, spacedEnough_loose hloose, decide_eq_false (by omega)]

end greedy

section edges
variable (cfg : Config) (b : Block)

theorem afterEdges_setFilter (last : Option Time) (level : Bool) (n : Nat) :
    afterEdges cfg n (setFilter b last level) = setFilter (afterEdges cfg n b) last level := by
  induction n with
  | zero => rfl
  | succ n ih => rw [afterEdges, afterEdges, ih, counterClock_setFilter]

/-- `n + 1` clean edges are one and then `n`. -/
theorem afterEdges_succ_first (n : Nat) : afterEdges cfg (n + 1) b = afterEdges cfg n (counterClock cfg b).1 := by
  induction n with
  | zero => rfl
  | succ n ih => rw [afterEdges, ih, afterEdges]

end edges

/-- The block `b` after rising transitions at `times`, picked greedily, with the A12 line low again. -/
def afterGreedyEdges (cfg : Config) (times : List Time) (b : Block) : Block :=
  setFilter (afterEdges cfg (greedyEdges cfg.filterWindow b.lastEdge times).length b)
    ((greedyEdges cfg.filterWindow b.lastEdge times).getLast?.or b.lastEdge) false

section run
variable {cfg : Config} {b : Block} {t : Time}

theorem afterGreedyEdges_nil (hprev : b.a12Prev = false) : afterGreedyEdges cfg [] b = b := by
  simp [afterGreedyEdges, greedyEdges, afterEdges, ← hprev]

theorem afterGreedyEdges_of_windowPassed (h : WindowPassed cfg.filterWindow b.lastEdge t) (rest : List Time) :
    afterGreedyEdges cfg (t :: rest) b =
      afterGreedyEdges cfg rest (setFilter (counterClock cfg b).1 (some t) false) := by
  simp [afterGreedyEdges, greedyEdges_of_windowPassed h, afterEdges_succ_first, afterEdges_setFilter,
    List.getLast?_cons, Option.or_some]

theorem afterGreedyEdges_of_not_windowPassed (h : ¬WindowPassed cfg.filterWindow b.lastEdge t) (rest : List Time) :
    afterGreedyEdges cfg (t :: rest) b = afterGreedyEdges cfg rest b := by
  rw [afterGreedyEdges, greedyEdges_of_not_windowPassed h, afterGreedyEdges]

/-- The run of 40_a12_filter.md R106, from any last edge that is not after the first time. -/
theorem runEvents_rises_greedy {high low : Addr16} (hloose : cfg.filterStrict = false) (hhigh : a12 high = true)
    (hlow : a12 low = false) (times : List Time) (s : State) (b : Block) (hc : s.chip = some ⟨cfg, b⟩)
    (hprev : b.a12Prev = false) (hsorted : (b.lastEdge.toList ++ times).Pairwise (fun x y => x.toNat ≤ y.toNat)) :
    ∃ s', runEvents (times.flatMap fun t => [.ppuAddr high t, .ppuAddr low t]) s = .next s' ∧
      s'.chip = some ⟨cfg, afterGreedyEdges cfg times b⟩ := by
  induction times generalizing s b with
  | nil => exact ⟨s, rfl, by rw [hc, afterGreedyEdges_nil hprev]⟩
  | cons t rest ih =>
    have hr : rising b high = true := rising_iff.2 ⟨hprev, hhigh⟩
    obtain ⟨-, htimes, hle⟩ := List.pairwise_append.1 hsorted
    simp only [List.flatMap_cons, List.cons_append, List.nil_append]
    by_cases h : WindowPassed cfg.filterWindow b.lastEdge t
    · have hobs := observeAddress_of_accept hr (filterAccept_of_windowPassed hloose h)
      rw [afterGreedyEdges_of_windowPassed h, runEvents_rise_fall hc hlow hobs, commitEdge_level]
      exact ih _ _ rfl rfl htimes
    · have hlast : ∀ l ∈ b.lastEdge.toList, l.toNat ≤ t.toNat := fun l hl => hle l hl t List.mem_cons_self
      have hobs := observeAddress_of_reject hr (filterAccept_of_not_windowPassed hloose hlast h)
      have hback : setFilter b b.lastEdge false = b := by rw [← hprev, setFilter_self]
      rw [afterGreedyEdges_of_not_windowPassed h, runEvents_rise_fall hc hlow hobs]
      exact ih _ b (congrArg (fun b => some (Chip.mk cfg b)) hback) hprev (hsorted.sublist (by simp))

end run

end Sys2Proof
end

section
/-! PROOFS. The statements of 40_a12_filter.md. -/

namespace Sys2Proof.Proofs

open Sys2Proof.Machine

/-- Settles O19: the filter's answer to the event selects the case. -/
theorem ppuAddrFiltersRisingTransitions : Obligations.PpuAddrFiltersRisingTransitions := by
  unfold Obligations.PpuAddrFiltersRisingTransitions
  intro s c a t hc
  refine ⟨?level, ?first, ?regression, ?accepted, ?rejected⟩
  case level =>
    intro hr
    exact exec_ppuAddr_of_ok hc (observeAddress_of_not_rising (mt rising_iff.1 hr))
  case first =>
    intro hprev ha hl
    have hf : filterAccept c.cfg c.blk.lastEdge t = .ok true := by rw [hl, filterAccept_none]
    exact exec_ppuAddr_of_ok hc (observeAddress_of_accept (rising_iff.2 ⟨hprev, ha⟩) hf)
  case regression =>
    intro l hprev ha hl hlt
    have hf : filterAccept c.cfg c.blk.lastEdge t = .error .timeRegression := by rw [hl, filterAccept_of_lt hlt]
    exact exec_ppuAddr_of_error hc (observeAddress_of_fault (rising_iff.2 ⟨hprev, ha⟩) hf)
  case accepted =>
    intro l hprev ha hl hle hspaced
    have hf : filterAccept c.cfg c.blk.lastEdge t = .ok true := by
      rw [hl, filterAccept_of_le hle, (spacedEnough_iff_ite c.cfg _).2 hspaced]
    exact exec_ppuAddr_of_ok hc (observeAddress_of_accept (rising_iff.2 ⟨hprev, ha⟩) hf)
  case rejected =>
    intro l hprev ha hl hle hnear
    have hf : filterAccept c.cfg c.blk.lastEdge t = .ok false := by
      rw [hl, filterAccept_of_le hle, Bool.eq_false_iff.2 (mt (spacedEnough_iff_ite c.cfg _).1 hnear)]
    exact exec_ppuAddr_of_ok hc (observeAddress_of_reject (rising_iff.2 ⟨hprev, ha⟩) hf)

/-- Settles O24: by induction on the times from any last edge, here none; the distances likewise. -/
theorem filterAcceptsGreedily : Obligations.FilterAcceptsGreedily := by
  unfold Obligations.FilterAcceptsGreedily
  intro s c high low times hc hloose hl hprev hhigh hlow hsorted
  refine ⟨?run, greedyEdges_pairwise _ none times⟩
  case run =>
    have hblock : afterGreedyEdges c.cfg times c.blk =
        setFilter (afterEdges c.cfg (greedyEdges c.cfg.filterWindow none times).length c.blk)
          (greedyEdges c.cfg.filterWindow none times).getLast? false := by
      rw [afterGreedyEdges, hl, Option.or_none]
    have hrun := runEvents_rises_greedy hloose hhigh hlow times s c.blk hc hprev (by simpa [hl] using hsorted)
    rw [hblock] at hrun
    exact hrun

end Sys2Proof.Proofs
end

section
/-! PROOFS. One clean edge of the counter (41_irq_counter.md R120 to R123), its reset (R128), and the deferred reload
write (R124). -/

namespace Sys2Proof.Machine

section nextCount
variable {b : Block}

theorem nextCount_of_count_zero (h0 : b.count = 0) : nextCount b = b.reload :=
  if_pos h0

/-- The decrement does not wrap (R125 (a)). -/
theorem nextCount_of_count_ne_zero (h0 : b.count ≠ 0) : (nextCount b).toNat + 1 = b.count.toNat := by
  rw [nextCount, if_neg h0]
  bv_omega

/-- R120's words give the new count: the reload value, or the count less one. -/
theorem eq_nextCount {next : Byte} (hzero : b.count = 0 → next = b.reload)
    (hpos : b.count ≠ 0 → next.toNat + 1 = b.count.toNat) : next = nextCount b := by
  by_cases h0 : b.count = 0
  · rw [hzero h0, nextCount_of_count_zero h0]
  · have hnext := hpos h0
    have hcount := nextCount_of_count_ne_zero h0
    exact BitVec.eq_of_toNat_eq (by omega)

end nextCount

section clock
variable {cfg : Config} {b : Block}

theorem counterClock_of_trigger (hn : nextCount b = 0) (he : b.enabled = true) :
    counterClock cfg b = ({ b with count := countAfterTrigger cfg b, pending := true }, true) := by
  rcases counterClock_cases cfg b with ⟨-, -, h⟩ | ⟨hno, -⟩
  · exact h
  · simp [hn, he] at hno

theorem counterClock_of_no_trigger (h : nextCount b ≠ 0 ∨ b.enabled = false) :
    counterClock cfg b = ({ b with count := nextCount b }, false) := by
  rcases counterClock_cases cfg b with ⟨hn, he, -⟩ | ⟨-, hclock⟩
  · simp [hn, he] at h
  · exact hclock

theorem countAfterTrigger_reloadOnTrigger (hz : cfg.zeroPolicy = .reloadOnTrigger) :
    countAfterTrigger cfg b = b.reload := by
  simp [countAfterTrigger, hz]

theorem countAfterTrigger_holdAtBoundary (hz : cfg.zeroPolicy = .holdAtBoundary) : countAfterTrigger cfg b = 0 := by
  simp [countAfterTrigger, hz]

end clock

section reset
variable (cfg : Config) (b : Block)

theorem counterReset_hard : counterReset cfg true b =
    { b with count := 0, reload := 0, enabled := false, pending := false } := rfl

theorem counterReset_soft : counterReset cfg false b =
    { b with pending := false, enabled := if cfg.softResetClearsEnable = true then false else b.enabled } := by
  cases hclears : cfg.softResetClearsEnable <;> simp [counterReset, clearPending, setEnabled, hclears]

end reset

section reloadWrite
variable {cfg : Config} (b : Block) (d : Byte)

/-- Under Deferred the write touches the reload value alone (R124). -/
theorem writeReload_deferred (hp : cfg.reloadWritePolicy = .deferred) :
    writeReload cfg b d = { b with reload := countOfData cfg d } := by
  simp [writeReload, hp]

theorem exec_irqReloadValue_built {s : State} {c : Chip} (hc : s.chip = some c) (a : Addr16) (d : Byte) :
    exec (.irqReloadValue a d) s = update s c (writeReload c.cfg c.blk d) :=
  exec_writeInstr_built hc .irqReloadValue a d

end reloadWrite

end Sys2Proof.Machine
end

section
/-! PROOFS. Clean edges in a row (41_irq_counter.md R124 to R126): how long the count runs down whatever the reload
value is, and on which edges an enabled counter triggers. -/

namespace Sys2Proof

open Sys2Proof.Machine

section edges
variable (cfg : Config) (b : Block)

@[simp] theorem afterEdges_reload (n : Nat) : (afterEdges cfg n b).reload = b.reload := by
  induction n with
  | zero => rfl
  | succ n ih => rw [afterEdges, counterClock_reload, ih]

@[simp] theorem afterEdges_enabled (n : Nat) : (afterEdges cfg n b).enabled = b.enabled := by
  induction n with
  | zero => rfl
  | succ n ih => rw [afterEdges, counterClock_enabled, ih]

theorem edgeTriggers_succ (n : Nat) : edgeTriggers cfg b (n + 1) =
    (decide (nextCount (afterEdges cfg n b) = 0) && b.enabled) := by
  simp [edgeTriggers, triggers]

theorem edgeTriggers_succ_first (n : Nat) :
    edgeTriggers cfg b (n + 1 + 1) = edgeTriggers cfg (counterClock cfg b).1 (n + 1) := by
  simp [edgeTriggers, afterEdges_succ_first]

end edges

section countdown
variable {cfg : Config} {b b' : Block} {n : Nat}

/-- Edges before the one that brings a positive count to 0 only decrement it: the reload value is not read. -/
theorem afterEdges_count_add (hn : n < b.count.toNat) : (afterEdges cfg n b).count.toNat + n = b.count.toNat := by
  induction n with
  | zero => rfl
  | succ n ih =>
    have hcount := ih (by omega)
    have hnext := nextCount_of_count_ne_zero (b := afterEdges cfg n b) (by bv_omega)
    have hclock := counterClock_of_no_trigger (cfg := cfg) (b := afterEdges cfg n b) (.inl (by bv_omega))
    rw [afterEdges, hclock]
    dsimp only
    omega

theorem afterEdges_count_congr (hb : b'.count = b.count) (hn : n < b.count.toNat) :
    (afterEdges cfg n b').count = (afterEdges cfg n b).count := by
  have h := afterEdges_count_add (cfg := cfg) hn
  have h' := afterEdges_count_add (cfg := cfg) (hb ▸ hn)
  rw [hb] at h'
  exact BitVec.eq_of_toNat_eq (by omega)

/-- What edge `n + 1` makes of a positive count, up to the edge that brings it to 0. -/
theorem nextCount_afterEdges_add (hn : n < b.count.toNat) :
    (nextCount (afterEdges cfg n b)).toNat + (n + 1) = b.count.toNat := by
  have hcount := afterEdges_count_add (cfg := cfg) hn
  have hnext := nextCount_of_count_ne_zero (b := afterEdges cfg n b) (by bv_omega)
  omega

/-- Up to the edge that brings the count to 0, the triggers depend on the count and `enabled` alone. -/
theorem edgeTriggers_congr (hb : b'.count = b.count) (he : b'.enabled = b.enabled) (hn : n < b.count.toNat) :
    edgeTriggers cfg b' (n + 1) = edgeTriggers cfg b (n + 1) := by
  have h := nextCount_afterEdges_add (cfg := cfg) hn
  have h' := nextCount_afterEdges_add (cfg := cfg) (hb ▸ hn)
  rw [hb] at h'
  have hnext : nextCount (afterEdges cfg n b') = nextCount (afterEdges cfg n b) :=
    BitVec.eq_of_toNat_eq (by omega)
  rw [edgeTriggers_succ, edgeTriggers_succ, hnext, he]

/-- The edge that brings a positive count to 0 triggers, and leaves the count that ZERO_POLICY chooses (R122). -/
theorem afterEdges_count_self (h0 : b.count ≠ 0) (he : b.enabled = true) :
    (afterEdges cfg b.count.toNat b).count = countAfterTrigger cfg b := by
  obtain ⟨n, hn⟩ : ∃ n, b.count.toNat = n + 1 := Nat.exists_eq_succ_of_ne_zero (by bv_omega)
  have hnext := nextCount_afterEdges_add (cfg := cfg) (b := b) (n := n) (by omega)
  have hclock := counterClock_of_trigger (cfg := cfg) (b := afterEdges cfg n b) (by bv_omega) (by simp [he])
  rw [hn, afterEdges, hclock]
  simp [countAfterTrigger]

end countdown

/-- The number of clean edges from a trigger of the block `b`, while enabled, to the next one. -/
def triggerPeriod (cfg : Config) (b : Block) : Nat :=
  (nextCount { b with count := countAfterTrigger cfg b }).toNat + 1

section period
variable {cfg : Config} {b : Block}

theorem triggerPeriod_reloadOnTrigger (hz : cfg.zeroPolicy = .reloadOnTrigger) (hR : b.reload ≠ 0) :
    triggerPeriod cfg b = b.reload.toNat := by
  rw [triggerPeriod, countAfterTrigger_reloadOnTrigger hz]
  exact nextCount_of_count_ne_zero hR

theorem triggerPeriod_holdAtBoundary (hz : cfg.zeroPolicy = .holdAtBoundary) :
    triggerPeriod cfg b = b.reload.toNat + 1 := by
  rw [triggerPeriod, countAfterTrigger_holdAtBoundary hz, nextCount_of_count_zero rfl]

theorem triggerPeriod_reload_zero (hR : b.reload = 0) : triggerPeriod cfg b = 1 := by
  have hcount : countAfterTrigger cfg b = 0 := by
    cases hz : cfg.zeroPolicy with
    | reloadOnTrigger => rw [countAfterTrigger_reloadOnTrigger hz, hR]
    | holdAtBoundary => exact countAfterTrigger_holdAtBoundary hz
  rw [triggerPeriod, hcount, nextCount_of_count_zero rfl]
  simp [hR]

/-- The period is read off the configuration and the reload value, which a clean edge keeps. -/
@[simp] theorem triggerPeriod_counterClock : triggerPeriod cfg (counterClock cfg b).1 = triggerPeriod cfg b := by
  rcases counterClock_cases cfg b with ⟨-, -, h⟩ | ⟨-, h⟩ <;> rw [h] <;> rfl

theorem nextCount_counterClock_of_trigger (hn : nextCount b = 0) (he : b.enabled = true) :
    (nextCount (counterClock cfg b).1).toNat + 1 = triggerPeriod cfg b := by
  rw [counterClock_of_trigger hn he]
  rfl

theorem nextCount_counterClock_of_ne_zero (hn : nextCount b ≠ 0) :
    (nextCount (counterClock cfg b).1).toNat + 1 = (nextCount b).toNat := by
  rw [counterClock_of_no_trigger (.inl hn)]
  exact nextCount_of_count_ne_zero hn

/-- The multiples of `p + 1` among the positive numbers begin with `p + 1`. -/
theorem le_and_succ_dvd_sub_iff (p n : Nat) : (p ≤ n ∧ p + 1 ∣ n - p) ↔ p + 1 ∣ n + 1 := by
  rw [← Nat.add_sub_add_right n 1 p, ← Nat.succ_le_succ_iff,
    and_congr_right fun hle => Nat.dvd_sub_iff_left hle (Nat.dvd_refl _)]
  exact and_iff_right_of_imp (Nat.le_of_dvd n.succ_pos)

/-- Every trigger of an enabled counter: the first once the new count of edge 1 has run down to 0, and from there one
every period. Induction on the edges, one edge taken off the front each time. -/
theorem edgeTriggers_succ_iff (he : b.enabled = true) (n : Nat) : edgeTriggers cfg b (n + 1) = true ↔
    (nextCount b).toNat ≤ n ∧ triggerPeriod cfg b ∣ n - (nextCount b).toNat := by
  induction n generalizing b with
  | zero =>
    have hzero : nextCount b = 0 ↔ (nextCount b).toNat ≤ 0 := by bv_omega
    rw [edgeTriggers_succ, he, Bool.and_true, decide_eq_true_iff, afterEdges, hzero, Nat.zero_sub]
    exact (and_iff_left (dvd_zero _)).symm
  | succ n ih =>
    rw [edgeTriggers_succ_first, ih (by simp [he]), triggerPeriod_counterClock]
    by_cases hn : nextCount b = 0
    · have hperiod := nextCount_counterClock_of_trigger (cfg := cfg) hn he
      have hfirst : (nextCount b).toNat = 0 := by simp [hn]
      rw [hfirst, ← hperiod, le_and_succ_dvd_sub_iff]
      simp
    · have hrest := nextCount_counterClock_of_ne_zero (cfg := cfg) hn
      have hsub : n - (nextCount (counterClock cfg b).1).toNat = n + 1 - (nextCount b).toNat := by omega
      rw [hsub, ← hrest, Nat.add_le_add_iff_right]

/-- The first trigger of an enabled counter. -/
theorem edgeTriggers_succ_iff_eq {n : Nat} (he : b.enabled = true) (hn : n ≤ (nextCount b).toNat) :
    edgeTriggers cfg b (n + 1) = true ↔ n = (nextCount b).toNat := by
  rw [edgeTriggers_succ_iff he]
  constructor
  · rintro ⟨hle, -⟩
    omega
  · rintro rfl
    simp

end period

end Sys2Proof
end

section
/-! PROOFS. The statements of 41_irq_counter.md. -/

namespace Sys2Proof.Proofs

open Sys2Proof.Machine

/-- Settles O42, one equation for each kind of reset. -/
theorem counterResetHardAndSoft : Obligations.CounterResetHardAndSoft := by
  unfold Obligations.CounterResetHardAndSoft
  intro cfg b
  exact ⟨counterReset_hard cfg b, counterReset_soft cfg b⟩

/-- Settles O20: the rule's words give the new count, which decides how the clean edge ends. -/
theorem counterClockReloadsDecrementsOrTriggers : Obligations.CounterClockReloadsDecrementsOrTriggers := by
  unfold Obligations.CounterClockReloadsDecrementsOrTriggers
  intro cfg b next hzero hpos
  obtain rfl : next = nextCount b := eq_nextCount hzero hpos
  refine ⟨?noTrigger, ?reloads, ?holds⟩
  case noTrigger =>
    intro h
    exact counterClock_of_no_trigger h
  case reloads =>
    intro hn he hz
    rw [counterClock_of_trigger hn he, countAfterTrigger_reloadOnTrigger hz]
  case holds =>
    intro hn he hz
    rw [counterClock_of_trigger hn he, countAfterTrigger_holdAtBoundary hz]

/-- Settles O25: the new count of the first edge is the number of edges before the first trigger. -/
theorem firstTriggerEdge : Obligations.FirstTriggerEdge := by
  unfold Obligations.FirstTriggerEdge
  refine ⟨?fromZero, ?fromCount⟩
  case fromZero =>
    intro cfg b n h0 he h1 hn
    obtain ⟨k, rfl⟩ := Nat.exists_eq_add_of_le' h1
    have hnext := nextCount_of_count_zero h0
    rw [edgeTriggers_succ_iff_eq he (by rw [hnext]; omega), hnext, Nat.add_right_cancel_iff]
  case fromCount =>
    intro cfg b n he h1 hn
    obtain ⟨k, rfl⟩ := Nat.exists_eq_add_of_le' h1
    have hnext := nextCount_of_count_ne_zero (b := b) (by bv_omega)
    rw [edgeTriggers_succ_iff_eq he (by omega), ← hnext, Nat.add_right_cancel_iff]

/-- Settles O26: from count 0 the first trigger is edge R + 1, and the policy and R give the period. -/
theorem triggersComeAtThePolicysPeriod : Obligations.TriggersComeAtThePolicysPeriod := by
  unfold Obligations.TriggersComeAtThePolicysPeriod
  intro cfg b n h0 he h1
  obtain ⟨k, rfl⟩ := Nat.exists_eq_add_of_le' h1
  rw [edgeTriggers_succ_iff he, nextCount_of_count_zero h0]
  refine ⟨?reloads, ?holds, ?zero⟩
  case reloads =>
    intro hz hR
    rw [triggerPeriod_reloadOnTrigger hz (by bv_omega), Nat.lt_succ_iff, Nat.add_sub_cancel]
    exact and_congr_right fun hle =>
      (Nat.dvd_sub_iff_left hle (Nat.dvd_refl _)).trans Nat.dvd_iff_mod_eq_zero
  case holds =>
    intro hz
    rw [triggerPeriod_holdAtBoundary hz, le_and_succ_dvd_sub_iff, Nat.dvd_iff_mod_eq_zero]
  case zero =>
    intro hR
    rw [triggerPeriod_reload_zero hR, hR]
    simp

/-- Settles O27: the count runs down without a look at the reload value, which the trigger at its end reads. -/
theorem deferredReloadWriteKeepsTheSchedule : Obligations.DeferredReloadWriteKeepsTheSchedule := by
  unfold Obligations.DeferredReloadWriteKeepsTheSchedule
  intro s c a d hc hp
  refine ⟨{ c.blk with reload := countOfData c.cfg d }, ?write, ?counts, ?triggers, ?newValue⟩
  case write => rw [exec_irqReloadValue_built hc, writeReload_deferred c.blk d hp, update]
  case counts =>
    intro n hn
    exact afterEdges_count_congr rfl hn
  case triggers =>
    intro n h1 hn
    obtain ⟨k, rfl⟩ := Nat.exists_eq_add_of_le' h1
    exact edgeTriggers_congr rfl rfl hn
  case newValue =>
    intro h0 he hz
    have hlast := afterEdges_count_self (cfg := c.cfg) (b := { c.blk with reload := countOfData c.cfg d }) h0 he
    exact hlast.trans (countAfterTrigger_reloadOnTrigger hz)

end Sys2Proof.Proofs
end

section
/-! PROOFS. The masks in which 42_register_writes.md says which addresses `decodeRef` gives an operation, against the fields
a[15:12], a[2:0] and a[1:0] of 30_encoding.md R74. -/

namespace Sys2Proof

section masks

/-- Two pairs of fields of the same widths, put together, are equal field by field. -/
theorem append_eq_append_iff {n m : Nat} {x x' : BitVec n} {y y' : BitVec m} :
    x ++ y = x' ++ y' ↔ x = x' ∧ y = y' := by
  constructor
  · intro h
    have hx := congrArg (BitVec.extractLsb' m n) h
    have hy := congrArg (BitVec.extractLsb' 0 m) h
    rw [BitVec.extractLsb'_append_eq_left, BitVec.extractLsb'_append_eq_left] at hx
    rw [BitVec.extractLsb'_append_eq_right, BitVec.extractLsb'_append_eq_right] at hy
    exact ⟨hx, hy⟩
  · rintro ⟨rfl, rfl⟩
    rfl

/-- The mask 0xF000 keeps the page. -/
theorem and_0xF000 (a : Addr16) : a &&& 0xF000 = a.extractLsb' 12 4 ++ 0#12 := by
  have hfields : a.extractLsb' 12 4 ++ a.extractLsb' 0 12 = a := by
    rw [BitVec.extractLsb'_append_extractLsb'_eq_extractLsb' (by decide : 12 = 0 + 12), BitVec.extractLsb'_eq_self]
  have hmask : (0xF000 : Addr16) = BitVec.allOnes 4 ++ 0#12 := rfl
  conv_lhs => rw [← hfields, hmask]
  rw [BitVec.and_append, BitVec.and_allOnes, BitVec.and_zero]

/-- The mask 0xF003 keeps the page and the two low bits. -/
theorem and_0xF003 (a : Addr16) : a &&& 0xF003 = a.extractLsb' 12 4 ++ 0#10 ++ a.extractLsb' 0 2 := by
  have hfields : a.extractLsb' 12 4 ++ a.extractLsb' 2 10 ++ a.extractLsb' 0 2 = a := by
    rw [BitVec.extractLsb'_append_extractLsb'_eq_extractLsb' (by decide : 12 = 2 + 10),
      BitVec.extractLsb'_append_extractLsb'_eq_extractLsb' (by decide : 2 = 0 + 2), BitVec.extractLsb'_eq_self]
  have hmask : (0xF003 : Addr16) = BitVec.allOnes 4 ++ 0#10 ++ BitVec.allOnes 2 := rfl
  conv_lhs => rw [← hfields, hmask]
  rw [BitVec.and_append, BitVec.and_append, BitVec.and_allOnes, BitVec.and_zero, BitVec.and_allOnes]

theorem and_0x0007_toNat (a : Addr16) : (a &&& 0x0007).toNat = (a.extractLsb' 0 3).toNat := by
  rw [BitVec.toNat_and, BitVec.extractLsb'_toNat, Nat.shiftRight_zero]
  exact Nat.and_two_pow_sub_one_eq_mod a.toNat 3

theorem and_0xF000_eq_iff (a : Addr16) (page : BitVec 4) : a &&& 0xF000 = page ++ 0#12 ↔ a.extractLsb' 12 4 = page := by
  rw [and_0xF000, append_eq_append_iff, and_iff_left rfl]

theorem and_0xF003_eq_iff (a : Addr16) (page : BitVec 4) (low : BitVec 2) :
    a &&& 0xF003 = page ++ 0#10 ++ low ↔ a.extractLsb' 12 4 = page ∧ a.extractLsb' 0 2 = low := by
  rw [and_0xF003, append_eq_append_iff, append_eq_append_iff, and_iff_left rfl]

end masks

section decodeRef
variable (a : Addr16)

/-- `decodeRef` selects bank `i` on page 8 alone, at the addresses whose low bits are `i`. -/
theorem lookup_decodeRef_eq_bankSelect_iff (i : Nat) :
    decodeRef.lookup a = .bankSelect i ↔ a &&& 0xF000 = 0x8000 ∧ i = (a &&& 0x0007).toNat := by
  have hpage : a &&& 0xF000 = 0x8000 ↔ a.extractLsb' 12 4 = 0x8 := and_0xF000_eq_iff a 0x8
  rw [hpage, and_0x0007_toNat, lookup_decodeRef]
  split_ifs with h8 hF h0 h1 h2
  · rw [RegOp.bankSelect.injEq, eq_comm, and_iff_right h8]
  all_goals exact iff_of_false nofun fun h => h8 h.1

/-- The `$F000` page holds no bank and no unmapped address. -/
theorem lookup_decodeRefIrqPage_not_bank_nor_unmapped (low : BitVec 2) :
    (decodeRefIrqPage.lookup (low.setWidth 16)).index? = none ∧ decodeRefIrqPage.lookup (low.setWidth 16) ≠ .unmapped := by
  revert low
  decide

/-- `decodeRef` selects the IRQ operation that its `$F000` page gives two low bits on that page alone, at the addresses
with those low bits. -/
theorem lookup_decodeRef_eq_irqPage_iff (low : BitVec 2) :
    decodeRef.lookup a = decodeRefIrqPage.lookup (low.setWidth 16) ↔ a &&& 0xF003 = (0xF : BitVec 4) ++ 0#10 ++ low := by
  rw [and_0xF003_eq_iff, lookup_decodeRef]
  by_cases hF : a.extractLsb' 12 4 = 0xF
  · have h8 : a.extractLsb' 12 4 ≠ 0x8 := by rw [hF]; decide
    rw [if_neg h8, if_pos hF, and_iff_right hF]
    generalize a.extractLsb' 0 2 = low'
    revert low low'
    decide
  · obtain ⟨hbank, hmapped⟩ := lookup_decodeRefIrqPage_not_bank_nor_unmapped low
    refine iff_of_false ?_ fun h => hF h.1
    rw [if_neg hF]
    split_ifs with h8
    · intro h
      rw [← h] at hbank
      cases hbank
    · exact hmapped.symm

/-- `decodeRef` selects nothing in the low half of the address space and on the pages 9 to E (30_encoding.md R76). -/
theorem lookup_decodeRef_eq_unmapped_iff :
    decodeRef.lookup a = .unmapped ↔
      a.getLsbD 15 = false ∨ (0x9 ≤ (a.extractLsb' 12 4).toNat ∧ (a.extractLsb' 12 4).toNat ≤ 0xE) := by
  have hpage : decodeRef.lookup a = .unmapped ↔ a.extractLsb' 12 4 ≠ 0x8 ∧ a.extractLsb' 12 4 ≠ 0xF := by
    rw [lookup_decodeRef]
    split_ifs with h8 hF h0 h1 h2
    · exact iff_of_false nofun fun h => h.1 h8
    iterate 4 exact iff_of_false nofun fun h => h.2 hF
    · exact iff_of_true rfl ⟨h8, hF⟩
  have hbit : a.getLsbD 15 = (a.extractLsb' 12 4).getLsbD 3 := by simp
  rw [hpage, hbit]
  generalize a.extractLsb' 12 4 = page
  revert page
  decide

end decodeRef

end Sys2Proof
end

section
/-! PROOFS. What the register writes and PPU_ADDR leave of a block that exists (42_register_writes.md). -/

namespace Sys2Proof.Machine

section writes
variable {s : State} {c : Chip} {a : Addr16} {d : Byte} {rest : List Record}

/-- Writing back the block that is there changes the response alone. -/
theorem update_self (hc : s.chip = some c) : update s c c.blk = .next { s with resp := .nothing } := by
  rw [update, ← hc]

/-- A step on a CPU write is the operation that the block's own `DECODE` selects, on the machine with the record taken. -/
theorem step_writeRecord_eq_exec (hc : s.chip = some c) (hinbox : s.inbox = writeRecord a d :: rest) :
    step s = exec (writeInstr (c.cfg.decode.lookup a) a d) { s with inbox := rest } := by
  have hc' : State.chip { s with inbox := rest } = some c := hc
  rw [step_writeRecord_built hc hinbox, exec_writeInstr_built hc']

/-- Under Immediate the write loads the count too (R154). -/
theorem writeReload_immediate {cfg : Config} (b : Block) (d : Byte) (hp : cfg.reloadWritePolicy = .immediate) :
    writeReload cfg b d = { b with reload := countOfData cfg d, count := countOfData cfg d } := by
  simp [writeReload, hp]

theorem exec_irqAck_built (hc : s.chip = some c) (a : Addr16) (d : Byte) :
    exec (.irqAck a d) s = update s c (clearPending c.blk) :=
  exec_writeInstr_built hc .irqAck a d

end writes

section acknowledge
variable {s : State} {c : Chip} {a : Addr16} {t : Time}

/-- A PPU_ADDR whose rising transition is accepted commits the edge (40_a12_filter.md R103). -/
theorem exec_ppuAddr_of_accept (hc : s.chip = some c) (hr : rising c.blk a = true)
    (hf : filterAccept c.cfg c.blk.lastEdge t = .ok true) :
    exec (.ppuAddr a t) s = update s c (commitEdge c.cfg { c.blk with a12Prev := true } t) :=
  exec_ppuAddr_of_ok hc (observeAddress_of_accept hr hf)

/-- An accepted edge that triggers leaves the IRQ pending. The trigger test reads `count`, `reload` and `enabled` alone, so
the edge triggers too on a block `b'` that agrees with `b` in those (41_irq_counter.md R121). -/
theorem commitEdge_pending_of_trigger {cfg : Config} {b b' : Block} (h : (counterClock cfg b).2 = true)
    (hcount : b'.count = b.count) (hreload : b'.reload = b.reload) (henabled : b'.enabled = b.enabled) :
    (commitEdge cfg b' t).pending = true := by
  have htriggers : triggers b' (nextCount b') = triggers b (nextCount b) := by
    rw [triggers, triggers, nextCount, nextCount, hcount, hreload, henabled]
  rw [commitEdge_pending, htriggers, ← counterClock_snd cfg b, h, Bool.or_true]

end acknowledge

end Sys2Proof.Machine
end

section
/-! PROOFS. The statements of 42_register_writes.md. -/

namespace Sys2Proof.Proofs

open Sys2Proof.Machine

/-- Settles O12: the record decodes through the block's own `DECODE`, and every register operation goes on. -/
theorem cpuWriteRunsTheSelectedOperation : Obligations.CpuWriteRunsTheSelectedOperation := by
  unfold Obligations.CpuWriteRunsTheSelectedOperation
  intro s c rest a d hc hinbox
  refine ⟨?operation, ?goesOn⟩
  case operation =>
    rw [step_writeRecord_eq_exec hc hinbox]
    cases c.cfg.decode.lookup a <;> rfl
  case goesOn =>
    exact ⟨writtenBlock c (c.cfg.decode.lookup a) d, step_writeRecord_built hc hinbox⟩

/-- Settles O28: the acknowledge clears what it finds, and neither the filter nor the trigger test reads `pending`. -/
theorem acknowledgeAndTriggerKeepTheirOrder : Obligations.AcknowledgeAndTriggerKeepTheirOrder := by
  unfold Obligations.AcknowledgeAndTriggerKeepTheirOrder
  intro s c a aw t d hc hrising haccept htrigger
  refine ⟨?ackLast, ?ackFirst⟩
  case ackLast =>
    rw [runEvents_cons_of_next _ (exec_ppuAddr_of_accept hc hrising haccept), runEvents_singleton,
      exec_irqAck_built rfl]
    exact ⟨_, rfl, rfl⟩
  case ackFirst =>
    rw [runEvents_cons_of_next _ (exec_irqAck_built hc aw d), runEvents_singleton,
      exec_ppuAddr_of_accept (c := ⟨c.cfg, clearPending c.blk⟩) rfl hrising haccept]
    exact ⟨_, rfl, commitEdge_pending_of_trigger htrigger rfl rfl rfl⟩

/-- Settles O13: a valid configuration is one of R9, and `decodeRef` reads the page and the three low bits. -/
theorem bankSelectWritesOneBank : Obligations.BankSelectWritesOneBank := by
  unfold Obligations.BankSelectWritesOneBank
  refine ⟨?write, ?bound, lookup_decodeRef_eq_bankSelect_iff⟩
  case write =>
    intro s c i a d hc
    exact exec_bankSelect_built hc i a d
  case bound =>
    intro cfg a i hvalid hlookup
    exact ((Config.valid_iff cfg).1 hvalid).decode_indices a i hlookup

/-- Settles O14, one clause for each policy. -/
theorem irqReloadValueSetsReload : Obligations.IrqReloadValueSetsReload := by
  unfold Obligations.IrqReloadValueSetsReload
  refine ⟨?deferred, ?immediate, fun a => lookup_decodeRef_eq_irqPage_iff a 0b00⟩
  case deferred =>
    intro s c a d hc hp
    rw [exec_irqReloadValue_built hc, writeReload_deferred c.blk d hp]
    rfl
  case immediate =>
    intro s c a d hc hp
    rw [exec_irqReloadValue_built hc, writeReload_immediate c.blk d hp]
    rfl

/-- Settles O15: the write's block differs in `count` alone. -/
theorem irqLatchClearsCount : Obligations.IrqLatchClearsCount := by
  unfold Obligations.IrqLatchClearsCount
  refine ⟨?write, fun a => lookup_decodeRef_eq_irqPage_iff a 0b01⟩
  case write =>
    intro s c a d hc
    exact exec_writeInstr_built hc .irqLatch a d

/-- Settles O16: the write's block differs in `enabled` alone. -/
theorem irqEnableSetsEnabledFromBitZero : Obligations.IrqEnableSetsEnabledFromBitZero := by
  unfold Obligations.IrqEnableSetsEnabledFromBitZero
  refine ⟨?write, fun a => lookup_decodeRef_eq_irqPage_iff a 0b10⟩
  case write =>
    intro s c a d hc
    exact exec_writeInstr_built hc .irqEnable a d

/-- Settles O17: the write's block differs in `pending` alone. -/
theorem irqAckClearsPendingOnly : Obligations.IrqAckClearsPendingOnly := by
  unfold Obligations.IrqAckClearsPendingOnly
  refine ⟨?write, fun a => lookup_decodeRef_eq_irqPage_iff a 0b11⟩
  case write =>
    intro s c a d hc
    exact exec_irqAck_built hc a d

/-- Settles O18: the block is written back as it was, and the pages but 8 and F hold no register. -/
theorem unmappedWriteChangesNothing : Obligations.UnmappedWriteChangesNothing := by
  unfold Obligations.UnmappedWriteChangesNothing
  refine ⟨?write, lookup_decodeRef_eq_unmapped_iff⟩
  case write =>
    intro s c a d hc
    exact (exec_writeInstr_built hc .unmapped a d).trans (update_self hc)

end Sys2Proof.Proofs
end

section
/-! PROOFS. `bankIndexRef` in the words of 43_bus_queries.md R182, and a bank map for every function of the region and the
address. -/

namespace Sys2Proof

/-- A choice of four by two neighbouring address bits answers by the two-bit field that they form. -/
theorem AddrMap.lookup_four_field {α : Type} (lo : Nat) (hlo : lo + 1 < 16) (f : BitVec 2 → α) (a : Addr16) :
    (four ⟨lo + 1, hlo⟩ ⟨lo, Nat.lt_of_succ_lt hlo⟩ (f 0) (f 1) (f 2) (f 3)).lookup a = f (a.extractLsb' lo 2) := by
  have hhigh : a.getLsbD (lo + 1) = (a.extractLsb' lo 2).getLsbD 1 := by simp
  have hlow : a.getLsbD lo = (a.extractLsb' lo 2).getLsbD 0 := by simp
  simp only [four, lookup, hhigh, hlow]
  generalize a.extractLsb' lo 2 = field
  obtain rfl | rfl | rfl | rfl : field = 0 ∨ field = 1 ∨ field = 2 ∨ field = 3 := by
    revert field
    decide
  all_goals rfl

/-- The PRG window of `bankIndexRef` is the upper half of the address space, a bank for each 8 KiB. -/
theorem lookup_bankIndexRef_prg (a : Addr16) : bankIndexRef.lookup .prg a =
    if a.getLsbD 15 = true then some (a.extractLsb' 13 2).toNat else none := by
  rw [← AddrMap.lookup_four_field 13 (by decide) (fun field => some field.toNat) a]
  rfl

/-- The CHR window of `bankIndexRef` is the half of the PPU space with a[13] = 0, a bank for each 2 KiB. -/
theorem lookup_bankIndexRef_chr (a : Addr16) : bankIndexRef.lookup .chr a =
    if a.getLsbD 13 = false then some (4 + (a.extractLsb' 11 2).toNat) else none := by
  have htree : bankIndexRef.lookup .chr a =
      if a.getLsbD 13 = true then none else some (4 + (a.extractLsb' 11 2).toNat) := by
    rw [← AddrMap.lookup_four_field 11 (by decide) (fun field => some (4 + field.toNat)) a]
    rfl
  rw [htree]
  cases a.getLsbD 13 <;> rfl

/-- Every function of the region and the address is some bank map's. -/
theorem BankMap.exists_lookup_eq (f : Region → Addr16 → Option Nat) : ∃ m : BankMap, ∀ r a, m.lookup r a = f r a := by
  obtain ⟨prg, hprg⟩ := AddrMap.exists_lookup_eq (f .prg)
  obtain ⟨chr, hchr⟩ := AddrMap.exists_lookup_eq (f .chr)
  refine ⟨⟨prg, chr⟩, fun r a => ?_⟩
  cases r with
  | prg => exact hprg a
  | chr => exact hchr a

end Sys2Proof
end

section
/-! PROOFS. What the events that only read answer on a block that exists (43_bus_queries.md R180 to R186), and what any
event answers there, read off the chip alone (R187). -/

namespace Sys2Proof.Machine

section reads
variable {s : State} {c : Chip} {i : Nat} {r : Region} {a : Addr16}

theorem exec_irqPoll_built (hc : s.chip = some c) : exec .irqPoll s = answer s (.bool c.blk.pending) :=
  onChip_built _ hc

theorem exec_peekBank_built (hc : s.chip = some c) (i : Nat) :
    exec (.peekBank i) s = answer s (.bank (peekedBank c i)) :=
  onChip_built _ hc

theorem exec_peekCount_built (hc : s.chip = some c) : exec .peekCount s = answer s (.count c.blk.count) :=
  onChip_built _ hc

/-- A bank register that exists can be read. -/
theorem readBank_of_lt {b : Block} (h : i < b.banks.length) : readBank b i = some b.banks[i] :=
  List.getElem?_eq_getElem h

/-- An address outside every window selects no bank (R183). -/
theorem queriedBank_of_lookup_none (h : c.cfg.bankIndex.lookup r a = none) : queriedBank c r a = none := by
  simp [queriedBank, h]

theorem peekedBank_of_lt (h : i < c.cfg.numBankRegs) : peekedBank c i = readBank c.blk i :=
  if_pos h

/-- An index past the last bank register is legal and names none (30_encoding.md R73). -/
theorem peekedBank_of_le (h : c.cfg.numBankRegs ≤ i) : peekedBank c i = none :=
  if_neg (Nat.not_lt.2 h)

end reads

section answers
variable {s s' : State} {c c₁ c₂ : Chip} {i : Instr}

/-- The response to the event `i` when it goes on with the existing chip `c` (`exec_resp_built`). CONSTRUCT never does. -/
def answerOf (c : Chip) : Instr → Response
  | .irqPoll => .bool c.blk.pending
  | .queryBank r a => .bank (queriedBank c r a)
  | .serialize => .bytes (saveRecord c.cfg c.blk)
  | .deserialize l => if recordValid c.cfg l then .nothing else .err .loadFailure
  | .peekBank k => .bank (peekedBank c k)
  | .peekCount => .count c.blk.count
  | _ => .nothing

theorem update_resp {b : Block} (h : update s c b = .next s') : s'.resp = .nothing := by
  obtain ⟨-, -, hresp⟩ := update_next h
  exact hresp

theorem answer_resp {r : Response} (h : answer s r = .next s') : s'.resp = r := by
  obtain ⟨-, -, hresp⟩ := answer_next h
  exact hresp

theorem execDeserialize_resp {l : List Byte} (hc : s.chip = some c) (h : execDeserialize l s = .next s') :
    s'.resp = answerOf c (.deserialize l) := by
  rw [execDeserialize, onChip_built _ hc] at h
  rw [answerOf]
  split_ifs at h ⊢ with hv
  · exact update_resp h
  · exact answer_resp h

/-- The response of an event that goes on is the chip's, whatever else the machine holds. -/
theorem exec_resp_built (hc : s.chip = some c) (h : exec i s = .next s') : s'.resp = answerOf c i := by
  cases i with
  | ppuAddr a t =>
    obtain ⟨_, _, -, -, rfl⟩ := execPpuAddr_next a t h
    rfl
  | irqPoll => exact answer_resp (onChip_built_next hc h)
  | queryBank r a => exact answer_resp (onChip_built_next hc h)
  | serialize => exact answer_resp (onChip_built_next hc h)
  | deserialize l => exact execDeserialize_resp hc h
  | peekBank k => exact answer_resp (onChip_built_next hc h)
  | peekCount => exact answer_resp (onChip_built_next hc h)
  | construct cfg => cases (execConstruct_built cfg hc).symm.trans h
  | _ => exact update_resp (onChip_built_next hc h)

theorem readBank_congr {b₁ b₂ : Block} (h : b₁.banks = b₂.banks) (k : Nat) : readBank b₁ k = readBank b₂ k := by
  rw [readBank, readBank, h]

/-- Every event but SERIALIZE answers from the configuration, `count`, `pending` and the banks alone (R187). -/
theorem answerOf_congr (hi : i ≠ .serialize) (hcfg : c₁.cfg = c₂.cfg) (hcount : c₁.blk.count = c₂.blk.count)
    (hpending : c₁.blk.pending = c₂.blk.pending) (hbanks : c₁.blk.banks = c₂.blk.banks) :
    answerOf c₁ i = answerOf c₂ i := by
  cases i with
  | irqPoll => exact congrArg Response.bool hpending
  | queryBank r a => simp only [answerOf, queriedBank, hcfg, readBank_congr hbanks]
  | serialize => exact absurd rfl hi
  | deserialize l => simp only [answerOf, hcfg]
  | peekBank k => simp only [answerOf, peekedBank, hcfg, readBank_congr hbanks]
  | peekCount => exact congrArg Response.count hcount
  | _ => rfl

end answers

end Sys2Proof.Machine
end

section
/-! PROOFS. The statements of 43_bus_queries.md. -/

namespace Sys2Proof.Proofs

open Sys2Proof.Machine

/-- Settles O6: each window of `bankIndexRef` reads its bank from two neighbouring address bits, and a map that tests
every address bit, the two highest of a CHR address among them (log 16), can answer anything. -/
theorem bankIndexRefFollowsTheWindows : Obligations.BankIndexRefFollowsTheWindows := by
  unfold Obligations.BankIndexRefFollowsTheWindows
  exact ⟨lookup_bankIndexRef_prg, lookup_bankIndexRef_chr, BankMap.exists_lookup_eq⟩

/-- Settles O30: in a legal state the bank that `BANK_INDEX` selects exists. -/
theorem queryBankAnswersTheSelectedBank : Obligations.QueryBankAnswersTheSelectedBank := by
  unfold Obligations.QueryBankAnswersTheSelectedBank
  refine ⟨?outside, ?inside, ?record⟩
  case outside =>
    intro s c r a hc hlookup
    rw [exec_queryBank_built hc, queriedBank_of_lookup_none hlookup, answer]
  case inside =>
    intro s c r a i hc hs hlookup
    have hi : i < c.blk.banks.length := queried_index_lt hc hs hlookup
    refine ⟨hi, ?_⟩
    rw [exec_queryBank_built hc, queriedBank_of_lookup c.blk hlookup, readBank_of_lt hi, answer]
  case record =>
    intro dec a
    have hprg := decode_encode_queryBank dec .prg a
    rw [encode, Region.bit, Nat.zero_mul, Nat.zero_add] at hprg
    exact ⟨hprg, decode_encode_queryBank dec .chr a⟩

/-- Settles O33: both responses are read off the chips, and only SERIALIZE's reads a hidden field. -/
theorem onlySerializeShowsTheHiddenFields : Obligations.OnlySerializeShowsTheHiddenFields := by
  unfold Obligations.OnlySerializeShowsTheHiddenFields
  intro i s₁ s₂ t₁ t₂ c₁ c₂ hi hc₁ hc₂ hcfg hcount hpending hbanks h₁ h₂
  rw [exec_resp_built hc₁ h₁, exec_resp_built hc₂ h₂]
  exact answerOf_congr hi hcfg hcount hpending hbanks

/-- Settles O29: the poll answers the level of the IRQ line. -/
theorem irqPollAnswersPending : Obligations.IrqPollAnswersPending := by
  unfold Obligations.IrqPollAnswersPending
  refine ⟨?answer, fun dec => decode_encode (i := .irqPoll) rfl⟩
  case answer =>
    intro s c hc
    exact ⟨exec_irqPoll_built hc, irqLine_built hc⟩

/-- Settles O31: a legal state holds N banks (10_state.md R22). -/
theorem peekBankAnswersTheRegister : Obligations.PeekBankAnswersTheRegister := by
  unfold Obligations.PeekBankAnswersTheRegister
  refine ⟨?below, ?beyond, fun dec i => decode_encode (i := .peekBank i) rfl⟩
  case below =>
    intro s c i hc hs hi
    obtain ⟨-, hrange⟩ := (inv_built_iff hc).1 hs
    have hlt : i < c.blk.banks.length := hrange.banks_length ▸ hi
    refine ⟨hlt, ?_⟩
    rw [exec_peekBank_built hc, peekedBank_of_lt hi, readBank_of_lt hlt, answer]
  case beyond =>
    intro s c i hc hi
    rw [exec_peekBank_built hc, peekedBank_of_le hi, answer]

/-- Settles O32: the record has no operand, and the accessor reads `count` alone. -/
theorem peekCountAnswersCount : Obligations.PeekCountAnswersCount := by
  unfold Obligations.PeekCountAnswersCount
  refine ⟨?answer, fun dec => decode_encode (i := .peekCount) rfl⟩
  case answer =>
    intro s c hc
    exact exec_peekCount_built hc

end Sys2Proof.Proofs
end

section
/-! PROOFS. The save record: its bytes, the propositions its checks decide, and what a load reads back from it
(44_save_state.md R201 to R206). -/

namespace Sys2Proof.Machine

section bytes
variable {l : List Byte} {cfg : Config} {k : Nat}

/-- A stretch of a record, byte by byte. -/
theorem forall_mem_take_drop_iff {n : Nat} (h : k + n ≤ l.length) (P : Byte → Prop) :
    (∀ x ∈ (l.drop k).take n, P x) ↔ ∀ i, i < n → P (recordByte l (k + i)) := by
  have hlen : ((l.drop k).take n).length = n := by simp; omega
  have hbyte (i : Nat) (hi : i < ((l.drop k).take n).length) : ((l.drop k).take n)[i] = recordByte l (k + i) := by
    have hlt : k + i < l.length := by omega
    simp [recordByte, hlt]
  rw [List.forall_mem_iff_getElem]
  simp only [hbyte, hlen]

/-- Byte `k` of the time a record holds is the record's byte 4 + `k` (R201). -/
theorem timeByte_recordTime (hk : k < 8) : timeByte (recordTime l) k = recordByte l (4 + k) := by
  apply BitVec.eq_of_getLsbD_eq
  intro i hi
  simp only [timeByte, recordTime, BitVec.getLsbD_extractLsb', BitVec.getLsbD_append]
  interval_cases k <;> grind

/-- Check (5) of R203 for a record that is long enough: the eight time bytes, as the machine cuts them out. -/
theorem timeBytes_zero_iff (h : 12 ≤ l.length) :
    (∀ x ∈ (l.drop 4).take 8, x = 0) ↔ ∀ k, 4 ≤ k → k ≤ 11 → recordByte l k = 0 := by
  rw [forall_mem_take_drop_iff h]
  constructor
  · intro hzero k hk4 hk11
    have hbyte : recordByte l (4 + (k - 4)) = 0 := hzero (k - 4) (by omega)
    rwa [Nat.add_sub_cancel' hk4] at hbyte
  · intro hzero i hi
    exact hzero (4 + i) (by omega) (by omega)

/-- The N banks of a record of the right length are all it holds from byte 13 on. -/
theorem take_drop_banks (h : l.length = 13 + cfg.numBankRegs) : (l.drop 13).take cfg.numBankRegs = l.drop 13 :=
  List.take_of_length_le (by simp [h])

/-- Check (7) of R203 for a record of the right length. -/
theorem banks_lt_iff (h : l.length = 13 + cfg.numBankRegs) :
    (∀ x ∈ l.drop 13, x.toNat < 2 ^ cfg.bankWidth) ↔
      ∀ i, i < cfg.numBankRegs → (recordByte l (13 + i)).toNat < 2 ^ cfg.bankWidth := by
  rw [← take_drop_banks h]
  exact forall_mem_take_drop_iff h.ge fun x => x.toNat < 2 ^ cfg.bankWidth

/-- The machine's check decides R203. -/
theorem recordValid_iff : recordValid cfg l = true ↔ SaveRecordOk cfg l := by
  simp only [recordValid, Bool.and_eq_true, Bool.or_eq_true, decide_eq_true_eq, List.all_eq_true]
  constructor
  · rintro ⟨⟨⟨⟨⟨⟨hlen, htag⟩, hcount, hreload⟩, hflags⟩, htime⟩, hbanks⟩, hvalues⟩
    exact {
      length_eq := hlen
      format_tag := htag
      count_lt := hcount
      reload_lt := hreload
      high_flags_zero := hflags
      no_time := fun hnone => (timeBytes_zero_iff (by omega)).1 (htime.resolve_left (Bool.eq_false_iff.1 hnone))
      bank_count := hbanks
      banks_lt := (banks_lt_iff hlen).1 hvalues }
  · intro ⟨hlen, htag, hcount, hreload, hflags, htime, hbanks, hvalues⟩
    refine ⟨⟨⟨⟨⟨⟨hlen, htag⟩, hcount, hreload⟩, hflags⟩, ?_⟩, hbanks⟩, (banks_lt_iff hlen).2 hvalues⟩
    rw [timeBytes_zero_iff (by omega)]
    exact (Bool.eq_false_or_eq_true _).imp id htime

end bytes

section saved
variable {cfg : Config} {b : Block} {k : Nat}

theorem saveRecord_getElem?_time (hk : k < 8) : (saveRecord cfg b)[4 + k]? = some (timeByte (savedTime b) k) := by
  interval_cases k <;> rfl

theorem saveRecord_getElem?_bank (i : Nat) : (saveRecord cfg b)[13 + i]? = b.banks[i]? := by
  rw [← List.getElem?_drop, saveRecord_drop]

theorem savedTime_of_some {t : Time} (h : b.lastEdge = some t) : savedTime b = t := by
  rw [savedTime, h, Option.getD_some]

theorem savedTime_of_none (h : b.lastEdge = none) : savedTime b = 0 := by
  rw [savedTime, h, Option.getD_none]

theorem timeByte_zero (k : Nat) : timeByte 0 k = 0 :=
  BitVec.extractLsb'_zero

/-- The high bits of the flags byte are 0. -/
theorem flagsByte_lt (b : Block) : (flagsByte b).toNat < 16 := by
  obtain ⟨-, -, -, -, hhigh⟩ := flagsByte_bits b
  have hdiv : (flagsByte b).toNat / 2 ^ 4 % 2 ^ 4 = 0 := by
    simpa only [BitVec.extractLsb'_toNat, Nat.shiftRight_eq_div_pow, BitVec.ofNat_eq_ofNat, BitVec.toNat_ofNat,
      Nat.zero_mod] using congrArg BitVec.toNat hhigh
  have hlt := (flagsByte b).isLt
  omega

/-- N fits its byte (00_scope.md R9). -/
theorem numBankRegs_byte (h : cfg.valid = true) : (BitVec.ofNat 8 cfg.numBankRegs).toNat = cfg.numBankRegs := by
  have hle : cfg.numBankRegs ≤ 8 := ((Config.valid_iff cfg).1 h).bank_regs.2
  rw [BitVec.toNat_ofNat]
  exact Nat.mod_eq_of_lt (by omega)

theorem saveRecord_length_of_inRange (h : b.InRange cfg) : (saveRecord cfg b).length = 13 + cfg.numBankRegs := by
  rw [saveRecord_length, h.banks_length]

/-- R203's last sentence. -/
theorem saveRecord_ok (hvalid : cfg.valid = true) (h : b.InRange cfg) : SaveRecordOk cfg (saveRecord cfg b) := by
  obtain ⟨-, -, -, hpresent, hhigh⟩ := flagsByte_bits b
  have hlen := saveRecord_length_of_inRange h
  exact {
    length_eq := hlen
    format_tag := rfl
    count_lt := h.count_lt
    reload_lt := h.reload_lt
    high_flags_zero := hhigh
    no_time := by
      intro hbit
      have hnone : b.lastEdge = none :=
        Option.isNone_iff_eq_none.1 (Option.isSome_eq_false_iff.1 (hpresent.symm.trans hbit))
      refine (timeBytes_zero_iff (by omega)).1 ?_
      rw [saveRecord_times, savedTime_of_none hnone]
      decide
    bank_count := numBankRegs_byte hvalid
    banks_lt := (banks_lt_iff hlen).1 h.banks_lt }

end saved

section loaded
variable {cfg : Config} {l : List Byte}

theorem loadRecord_count (h : SaveRecordOk cfg l) : (loadRecord cfg l).count = recordByte l 1 :=
  trunc_of_lt _ _ h.count_lt

theorem loadRecord_reload (h : SaveRecordOk cfg l) : (loadRecord cfg l).reload = recordByte l 2 :=
  trunc_of_lt _ _ h.reload_lt

theorem loadRecord_banks (h : SaveRecordOk cfg l) : (loadRecord cfg l).banks = l.drop 13 := by
  have htrunc (x : Byte) (hx : x ∈ l.drop 13) : trunc cfg.bankWidth x = x :=
    trunc_of_lt _ _ ((banks_lt_iff h.length_eq).2 h.banks_lt x hx)
  rw [loadRecord, take_drop_banks h.length_eq]
  exact (List.map_congr_left htrunc).trans (List.map_id' _)

theorem loadRecord_lastEdge_of_clear (h : (recordByte l 3).getLsbD 3 = false) : (loadRecord cfg l).lastEdge = none :=
  if_neg (Bool.eq_false_iff.1 h)

theorem loadRecord_lastEdge_of_set (h : (recordByte l 3).getLsbD 3 = true) :
    (loadRecord cfg l).lastEdge = some (recordTime l) :=
  if_pos h

end loaded

/-- The seven fields are the whole block (R200). -/
theorem Block.eq_of_fields_eq {b b' : Block} (hcount : b.count = b'.count) (hreload : b.reload = b'.reload)
    (henabled : b.enabled = b'.enabled) (hpending : b.pending = b'.pending) (hbanks : b.banks = b'.banks)
    (hlast : b.lastEdge = b'.lastEdge) (ha12 : b.a12Prev = b'.a12Prev) : b = b' := by
  cases b
  cases b'
  simp only [Block.mk.injEq]
  exact ⟨hcount, hreload, henabled, hpending, hbanks, hlast, ha12⟩

/-- A load takes every field of a saved block back from its record (R206). -/
theorem loadRecord_saveRecord {cfg : Config} {b : Block} (hvalid : cfg.valid = true) (h : b.InRange cfg) :
    loadRecord cfg (saveRecord cfg b) = b := by
  have hok := saveRecord_ok hvalid h
  obtain ⟨henabled, hpending, ha12, hpresent, -⟩ := flagsByte_bits b
  have hlast : (loadRecord cfg (saveRecord cfg b)).lastEdge = b.lastEdge := by
    cases hl : b.lastEdge with
    | none =>
      refine loadRecord_lastEdge_of_clear ?_
      rw [recordByte_saveRecord_3, hpresent, hl, Option.isSome_none]
    | some t =>
      rw [loadRecord_lastEdge_of_set, recordTime_saveRecord, savedTime_of_some hl]
      rw [recordByte_saveRecord_3, hpresent, hl, Option.isSome_some]
  exact Block.eq_of_fields_eq (loadRecord_count hok) (loadRecord_reload hok) henabled hpending (loadRecord_banks hok)
    hlast ha12

section events
variable {s : State} {c : Chip} {l : List Byte}

theorem exec_serialize_built (hc : s.chip = some c) : exec .serialize s = answer s (.bytes (saveRecord c.cfg c.blk)) :=
  onChip_built _ hc

theorem exec_deserialize_of_ok (hc : s.chip = some c) (h : SaveRecordOk c.cfg l) :
    exec (.deserialize l) s = update s c (loadRecord c.cfg l) :=
  (onChip_built _ hc).trans (if_pos (recordValid_iff.2 h))

theorem exec_deserialize_of_not_ok (hc : s.chip = some c) (h : ¬SaveRecordOk c.cfg l) :
    exec (.deserialize l) s = report s .loadFailure :=
  (onChip_built _ hc).trans (if_neg fun hv => h (recordValid_iff.1 hv))

end events

end Sys2Proof.Machine
end

section
/-! PROOFS. The statements of 44_save_state.md. -/

namespace Sys2Proof.Proofs

open Sys2Proof.Machine

/-- Settles O35: each byte of the record is read off its place in the list. -/
theorem serializeWritesTheRecord : Obligations.SerializeWritesTheRecord := by
  unfold Obligations.SerializeWritesTheRecord
  refine ⟨?answer, fun dec => decode_encode (i := .serialize) rfl⟩
  case answer =>
    intro s c hc hs
    obtain ⟨hvalid, hrange⟩ := (inv_built_iff hc).1 hs
    obtain ⟨henabled, hpending, ha12, hpresent, -⟩ := flagsByte_bits c.blk
    refine ⟨saveRecord c.cfg c.blk, exec_serialize_built hc, saveRecord_length_of_inRange hrange, rfl, rfl, rfl,
      ⟨flagsByte c.blk, rfl, henabled, hpending, ha12, hpresent, flagsByte_lt c.blk⟩, ?time, ?noTime,
      ⟨_, rfl, numBankRegs_byte hvalid⟩, fun i _ => saveRecord_getElem?_bank i⟩
    case time =>
      intro t k ht hk
      rw [saveRecord_getElem?_time hk, savedTime_of_some ht, timeByte]
    case noTime =>
      intro k hnone hk
      rw [saveRecord_getElem?_time hk, savedTime_of_none hnone, timeByte_zero]

/-- Settles O36: the response is the record of the block in range. -/
theorem serializedRecordsAreValid : Obligations.SerializedRecordsAreValid := by
  unfold Obligations.SerializedRecordsAreValid
  intro s s' c l hc hs h hresp
  obtain ⟨hvalid, hrange⟩ := (inv_built_iff hc).1 hs
  rw [exec_resp_built hc h] at hresp
  cases hresp
  exact saveRecord_ok hvalid hrange

/-- Settles O37: the checks make every cut of the load idle, and the eight time bytes are the bytes of the time. -/
theorem deserializeLoadsValidRecordsOnly : Obligations.DeserializeLoadsValidRecordsOnly := by
  unfold Obligations.DeserializeLoadsValidRecordsOnly
  refine ⟨?valid, fun s c l hc h => exec_deserialize_of_not_ok hc h,
    fun dec l => decode_encode (i := .deserialize l) rfl⟩
  case valid =>
    intro s c l hc h
    exact ⟨loadRecord c.cfg l, exec_deserialize_of_ok hc h, loadRecord_count h, loadRecord_reload h, rfl, rfl, rfl,
      loadRecord_lastEdge_of_clear,
      fun hset => ⟨recordTime l, loadRecord_lastEdge_of_set hset, fun k hk => timeByte_recordTime hk⟩,
      loadRecord_banks h⟩

/-- Settles O38: the record passes the checks, which see the configuration alone, and gives the block back. -/
theorem saveThenLoadRestoresTheBlock : Obligations.SaveThenLoadRestoresTheBlock := by
  unfold Obligations.SaveThenLoadRestoresTheBlock
  intro s t c b hc hs ht
  obtain ⟨hvalid, hrange⟩ := (inv_built_iff hc).1 hs
  refine ⟨saveRecord c.cfg c.blk, exec_serialize_built hc, ?_⟩
  rw [exec_deserialize_of_ok ht (saveRecord_ok hvalid hrange), update, loadRecord_saveRecord hvalid hrange]

end Sys2Proof.Proofs
end

section
/-! PROOFS. How an event ends, with and without a block: it goes on or it faults, and nothing else
(60_exceptions.md R225). -/

namespace Sys2Proof.Machine

section unbuilt
variable {s : State} {i : Instr} {f : Fault}

/-- Every event but CONSTRUCT needs a block (70_reset_and_hazards.md R251). -/
theorem exec_of_ne_construct_unbuilt (hc : s.chip = none) (hi : ∀ cfg, i ≠ .construct cfg) :
    exec i s = .fault .notConstructed := by
  cases i with
  | construct cfg => exact absurd rfl (hi cfg)
  | _ => exact onChip_unbuilt _ hc

/-- CONSTRUCT without a block creates it or reports, and both go on (70_reset_and_hazards.md R250). -/
theorem exec_construct_unbuilt_next (hc : s.chip = none) (cfg : Config) : ∃ s', exec (.construct cfg) s = .next s' := by
  by_cases hcfg : AcceptableConfig cfg
  · exact ⟨_, exec_construct_of_acceptable hc hcfg⟩
  · exact ⟨_, exec_construct_of_not_acceptable hc hcfg⟩

theorem exec_eq_fault_iff_unbuilt (hc : s.chip = none) :
    exec i s = .fault f ↔ f = .notConstructed ∧ ∀ cfg, i ≠ .construct cfg := by
  constructor
  · intro h
    refine ⟨exec_fault_unbuilt hc h, ?_⟩
    rintro cfg rfl
    obtain ⟨s', hnext⟩ := exec_construct_unbuilt_next hc cfg
    cases hnext.symm.trans h
  · rintro ⟨rfl, hi⟩
    exact exec_of_ne_construct_unbuilt hc hi

end unbuilt

section built
variable {s : State} {c : Chip} {i : Instr} {f : Fault}

/-- PPU_ADDR leaves no block exactly on a rising transition before the last edge (40_a12_filter.md R104). -/
theorem observeAddress_eq_error_iff {cfg : Config} {b : Block} {a : Addr16} {t : Time} :
    observeAddress cfg b a t = .error f ↔
      rising b a = true ∧ ∃ l, b.lastEdge = some l ∧ t.toNat < l.toNat ∧ f = .timeRegression := by
  constructor
  · intro h
    rcases observeAddress_cases cfg b a t with ⟨-, h'⟩ | ⟨hr, l, hl, hlt, -⟩ | ⟨-, _, -, -, -, h'⟩ | ⟨-, -, h'⟩
    · cases h.symm.trans h'
    · exact ⟨hr, l, hl, hlt, observeAddress_error h⟩
    · cases h.symm.trans h'
    · cases h.symm.trans h'
  · rintro ⟨hr, l, hl, hlt, rfl⟩
    exact observeAddress_of_fault hr (by rw [hl, filterAccept_of_lt hlt])

/-- The three ways an event ends on a block that exists: the two faults of 60_exceptions.md R225, each of its own event,
and going on. -/
theorem exec_built_cases (hc : s.chip = some c) :
    (∃ cfg, i = .construct cfg ∧ exec i s = .fault .alreadyConstructed) ∨
    (∃ a t f, i = .ppuAddr a t ∧ observeAddress c.cfg c.blk a t = .error f ∧ exec i s = .fault f) ∨
    (∃ s', exec i s = .next s') := by
  cases i with
  | construct cfg => exact .inl ⟨cfg, rfl, execConstruct_built cfg hc⟩
  | ppuAddr a t =>
    cases hobs : observeAddress c.cfg c.blk a t with
    | error f => exact .inr (.inl ⟨a, t, f, rfl, hobs, exec_ppuAddr_of_error hc hobs⟩)
    | ok b => exact .inr (.inr ⟨_, exec_ppuAddr_of_ok hc hobs⟩)
  | deserialize l =>
    by_cases hl : SaveRecordOk c.cfg l
    · exact .inr (.inr ⟨_, exec_deserialize_of_ok hc hl⟩)
    · exact .inr (.inr ⟨_, exec_deserialize_of_not_ok hc hl⟩)
  | _ => exact .inr (.inr ⟨_, onChip_built _ hc⟩)

theorem exec_eq_fault_iff_built (hc : s.chip = some c) :
    exec i s = .fault f ↔
      (∃ cfg, i = .construct cfg ∧ f = .alreadyConstructed) ∨
      (∃ a t, i = .ppuAddr a t ∧ observeAddress c.cfg c.blk a t = .error f) := by
  constructor
  · intro h
    rcases exec_built_cases hc with ⟨cfg, hi, h'⟩ | ⟨a, t, f', hi, hobs, h'⟩ | ⟨s', h'⟩
    · cases h.symm.trans h'
      exact .inl ⟨cfg, hi, rfl⟩
    · cases h.symm.trans h'
      exact .inr ⟨a, t, hi, hobs⟩
    · cases h.symm.trans h'
  · rintro (⟨cfg, rfl, rfl⟩ | ⟨a, t, rfl, hobs⟩)
    · exact execConstruct_built cfg hc
    · exact exec_ppuAddr_of_error hc hobs

end built

/-- An event is never refused: without a block it faults or is CONSTRUCT, with one it ends in one of three ways. -/
theorem exec_ne_refused (i : Instr) (s : State) (r : Refusal) : exec i s ≠ .refused r := by
  intro h
  cases hc : s.chip with
  | none =>
    by_cases hi : ∀ cfg, i ≠ .construct cfg
    · cases (exec_of_ne_construct_unbuilt hc hi).symm.trans h
    · obtain ⟨cfg, rfl⟩ := not_forall_not.1 hi
      obtain ⟨s', hnext⟩ := exec_construct_unbuilt_next hc cfg
      cases hnext.symm.trans h
  | some c =>
    rcases exec_built_cases hc with ⟨_, -, h'⟩ | ⟨_, _, _, -, -, h'⟩ | ⟨_, h'⟩ <;> cases h'.symm.trans h

end Sys2Proof.Machine
end

section
/-! PROOFS. The statement of 60_exceptions.md. -/

namespace Sys2Proof.Proofs

open Sys2Proof.Machine

/-- Settles O45: whether the block exists selects the clauses that can apply, and the filter's error is the one of
PPU_ADDR. -/
theorem eventsFaultExactlyOutsideTheContract : Obligations.EventsFaultExactlyOutsideTheContract := by
  unfold Obligations.EventsFaultExactlyOutsideTheContract
  refine ⟨?faults, exec_ne_refused⟩
  case faults =>
    intro i s f
    cases hc : s.chip with
    | none =>
      rw [exec_eq_fault_iff_unbuilt hc]
      simp
    | some c =>
      rw [exec_eq_fault_iff_built hc]
      simp [observeAddress_eq_error_iff, rising_iff, a12, and_assoc]

end Sys2Proof.Proofs
end

section
/-! PROOFS. A silenced block, disabled with no IRQ pending, stays silenced while only the PPU runs
(70_reset_and_hazards.md R256). -/

namespace Sys2Proof.Machine

section run
variable {s s' : State} {i : Instr} {events rest : List Instr}

/-- A run that goes on went on from the state its first event left. -/
theorem runEvents_cons_next (h : runEvents (i :: rest) s = .next s') :
    ∃ s₁, exec i s = .next s₁ ∧ runEvents rest s₁ = .next s' := by
  cases hexec : exec i s with
  | next s₁ => exact ⟨s₁, rfl, (runEvents_cons_of_next rest hexec).symm.trans h⟩
  | fault f => cases (runEvents_cons_of_fault rest hexec).symm.trans h
  | refused r => cases (runEvents_cons_of_refused rest hexec).symm.trans h

/-- What each event of a run keeps, the run keeps. -/
theorem runEvents_keeps {P : State → Prop} (hkeeps : ∀ i ∈ events, ∀ s s', P s → exec i s = .next s' → P s')
    (hs : P s) (h : runEvents events s = .next s') : P s' := by
  induction events generalizing s with
  | nil =>
    cases h
    exact hs
  | cons i rest ih =>
    obtain ⟨s₁, hexec, hrest⟩ := runEvents_cons_next h
    exact ih (fun j hj => hkeeps j (List.mem_cons_of_mem i hj)) (hkeeps i List.mem_cons_self s s₁ hs hexec) hrest

end run

section silenced
variable {s s' : State} {c : Chip}

/-- The counter is disabled and no IRQ is pending. -/
structure Block.Silenced (b : Block) : Prop where
  enabled : b.enabled = false
  pending : b.pending = false

/-- The block exists and is silenced. -/
def State.Silenced (s : State) : Prop :=
  ∃ c, s.chip = some c ∧ c.blk.Silenced

/-- A clean edge of a disabled counter is no trigger (41_irq_counter.md R121). -/
theorem counterClock_snd_of_disabled {b : Block} (cfg : Config) (he : b.enabled = false) :
    (counterClock cfg b).2 = false := by
  rw [counterClock_of_no_trigger (.inr he)]

/-- PPU_ADDR never writes `enabled`, and it raises `pending` only by a trigger. -/
theorem observeAddress_silenced {cfg : Config} {b b' : Block} {a : Addr16} {t : Time} (hb : b.Silenced)
    (h : observeAddress cfg b a t = .ok b') : b'.Silenced where
  enabled := (observeAddress_enabled h).trans hb.enabled
  pending := by
    rcases observeAddress_pending cfg b h with hkeep | ⟨-, -, -, htrigger⟩
    · exact hkeep.trans hb.pending
    · cases (counterClock_snd_of_disabled cfg hb.enabled).symm.trans htrigger

theorem exec_ppuAddr_silenced {a : Addr16} {t : Time} (hs : s.Silenced) (h : exec (.ppuAddr a t) s = .next s') :
    s'.Silenced := by
  obtain ⟨c, b, hc, hobs, rfl⟩ := execPpuAddr_next a t h
  obtain ⟨c₁, hc₁, hblk⟩ := hs
  obtain rfl : c = c₁ := Option.some.inj (hc.symm.trans hc₁)
  exact ⟨⟨c.cfg, b⟩, rfl, observeAddress_silenced hblk hobs⟩

theorem runEvents_ppuAddr_silenced (lines : List (Addr16 × Time)) (hs : s.Silenced)
    (h : runEvents (lines.map fun x => .ppuAddr x.1 x.2) s = .next s') : s'.Silenced := by
  refine runEvents_keeps ?_ hs h
  intro i hi s₁ s₂ hs₁ hexec
  obtain ⟨x, -, rfl⟩ := List.mem_map.1 hi
  exact exec_ppuAddr_silenced hs₁ hexec

theorem State.Silenced.irqLine_low (hs : s.Silenced) : s.irqLine = false := by
  obtain ⟨c, hc, hblk⟩ := hs
  exact (irqLine_built hc).trans hblk.pending

/-- RESET_SOFT when the block exists (R253). -/
theorem exec_resetSoft_built (hc : s.chip = some c) : exec .resetSoft s = update s c (softReset c.cfg c.blk) :=
  onChip_built _ hc

theorem exec_irqEnable_built (hc : s.chip = some c) (a : Addr16) (d : Byte) :
    exec (.irqEnable a d) s = update s c (setEnabled c.blk (enableOfData d)) :=
  exec_writeInstr_built hc .irqEnable a d

/-- The guard of R256: disabling and then acknowledging silences a block, and the run goes on from there. -/
theorem runEvents_guard_silenced {d₁ : Byte} (hc : s.chip = some c) (hd : d₁.getLsbD 0 = false) (a₁ a₂ : Addr16)
    (d₂ : Byte) (rest : List Instr) :
    ∃ s₁, s₁.Silenced ∧ runEvents (.irqEnable a₁ d₁ :: .irqAck a₂ d₂ :: rest) s = runEvents rest s₁ := by
  rw [runEvents_cons_of_next _ (exec_irqEnable_built hc a₁ d₁), runEvents_cons_of_next _ (exec_irqAck_built rfl a₂ d₂)]
  exact ⟨_, ⟨_, rfl, ⟨hd, rfl⟩⟩, rfl⟩

end silenced

end Sys2Proof.Machine
end

section
/-! PROOFS. The statements of 70_reset_and_hazards.md on the resets. -/

namespace Sys2Proof.Proofs

open Sys2Proof.Machine

/-- Settles O44: the reset leaves a block that exists, the guard silences it, and the PPU alone keeps it silenced. -/
theorem guardedSoftResetRaisesNoIrq : Obligations.GuardedSoftResetRaisesNoIrq := by
  unfold Obligations.GuardedSoftResetRaisesNoIrq
  intro s s' c a₁ a₂ d₁ d₂ lines hc hd hrun
  obtain ⟨s₀, hreset, hrest⟩ := runEvents_cons_next hrun
  obtain ⟨-, b, -, hc₀⟩ := exec_next_built hc hreset
  obtain ⟨s₁, hs₁, hguard⟩ := runEvents_guard_silenced hc₀ hd a₁ a₂ d₂ (lines.map fun x => .ppuAddr x.1 x.2)
  exact (runEvents_ppuAddr_silenced lines hs₁ (hguard.symm.trans hrest)).irqLine_low

/-- Settles O40: the block a hard reset leaves is written out by the configuration alone. -/
theorem resetHardGivesThePowerOnState : Obligations.ResetHardGivesThePowerOnState := by
  unfold Obligations.ResetHardGivesThePowerOnState
  refine ⟨?event, fun _ => rfl⟩
  case event =>
    intro s c hc
    rw [exec_resetHard_built hc, hardReset_eq]
    rfl

/-- Settles O41: the soft reset is the counter's soft reset, with the filter's two fields reset after it. -/
theorem resetSoftKeepsTheProgrammedState : Obligations.ResetSoftKeepsTheProgrammedState := by
  unfold Obligations.ResetSoftKeepsTheProgrammedState
  refine ⟨?event, fun _ => rfl⟩
  case event =>
    intro s c hc
    rw [exec_resetSoft_built hc, softReset, counterReset_soft]
    rfl

end Sys2Proof.Proofs
end
